-- ==== Sys2Proof/Word.lean ====
section
/-! DEFINITION. The bit-vector types of IS-CORE and the block type (spec/00_scope.md R7, R10 to R12). -/

namespace Sys2Proof

/-- A byte, an unsigned 8-bit value (R12). -/
abbrev Byte := BitVec 8

/-- A 32-bit bus word: every register of the window is read and written as such words (R7, R51). -/
abbrev Word32 := BitVec 32

/-- A 64-bit word of the linear layer (R6, R11). -/
abbrev Word64 := BitVec 64

/-- A byte offset in the 4096-byte register window (R7, R50). -/
abbrev Offset := BitVec 12

/-- A block: exactly 64 bytes, byte `i` at byte offset `i` (R12, R58). -/
abbrev Block := Vector Byte 64

/-- `ZERO`, the block of 64 zero bytes (R12). -/
def zeroBlock : Block := Vector.replicate 64 0

end Sys2Proof
end

