-- ==== Sys2Proof/Config.lean ====
section
/-! DEFINITION. What one IS-CORE instance fixes and the spec leaves open (spec/00_scope.md R5, R8). -/

namespace Sys2Proof

/-- The byte order of the 512-bit integer view, parameter `INT_ORDER` (R5, R82). -/
inductive IntOrder where
  | be
  | le
  deriving DecidableEq, Repr, Inhabited

/-- How a 128-byte padding result is compressed, parameter `PAD2_ORDER` (R5, R95). -/
inductive Pad2Order where
  | p0ThenP1
  | p1ThenP0
  | p0Only
  deriving DecidableEq, Repr, Inhabited

/-- The parameters of an instance that a rule of IS-CORE depends on (R5): the four ROM tables (R27 to R30)
and the two order parameters that CONFIG reports (R37). -/
structure Params where
  /-- `SBOX`, 256 bytes (R27). -/
  sbox : Vector Byte 256
  /-- `PERM`, 64 indices in 0..63 (R28). -/
  perm : Vector (Fin 64) 64
  /-- `A`, 64 values of 64 bits (R29). -/
  basis : Vector Word64 64
  /-- `C`, 12 blocks (R30). -/
  roundConst : Vector Block 12
  /-- `INT_ORDER` (R82). -/
  intOrder : IntOrder
  /-- `PAD2_ORDER` (R95). -/
  pad2Order : Pad2Order
  deriving DecidableEq, Repr, Inhabited

/-- The parameters of the instance that `State.reset` describes. No source gives their values, so the constant has no body
(R5, R8; log entries 4 and 20; DESIGN CHOICE, safe: a claim about it is a claim about every instance). -/
opaque Config.params : Params

/-- The 4096-byte page of the host address space in which the platform places the window (R5, OPEN `WINDOW_BASE`; log entry 5). -/
opaque Config.windowPage : Nat

/-- `WINDOW_BASE`, a 4096-aligned host address (R5). -/
def Config.windowBase : Nat := 4096 * Config.windowPage

end Sys2Proof
end

