-- ==== Sys2Proof/Syntax.lean ====
section
/-! DEFINITION. The commands of IS-CORE: one constructor per row of spec/opcode_table.json (spec/30_encoding.md R72). -/

namespace Sys2Proof

/-- A command. -/
inductive Instr where
  /-- NOP, no operation (R122). -/
  | nop
  /-- INIT, start a digest computation (R123). -/
  | init
  /-- ABSORB, compress the full block in MBUF (R124). -/
  | absorb
  /-- FINAL `r`, pad the `r` leading bytes of MBUF and run the two finalization compressions (R125). `r` counts bytes (R71). -/
  | final (r : Nat)
  deriving DecidableEq, Repr

end Sys2Proof
end

