-- ==== Sys2Proof/WellFormed.lean ====
section
/-! DEFINITION. Which commands have an encoding (spec/30_encoding.md R71). -/

namespace Sys2Proof

/-- The one check: FINAL's remainder length fits the six bits of REMLEN, 0..63 (R71). -/
def Instr.wellFormed : Instr → Bool
  | .nop => true
  | .init => true
  | .absorb => true
  | .final r => decide (r < 64)

/-- `i` is a command that a 32-bit command word can stand for. -/
abbrev WellFormed (i : Instr) : Prop := i.wellFormed = true

end Sys2Proof
end

