-- ==== Sys2Proof/Decode.lean ====
section
/-! DEFINITION. Command words: the decoder, total and rejecting by name, and the encoder
(spec/30_encoding.md R70 to R75), with the little-endian byte-order helpers of spec/20_memory.md R52. -/

namespace Sys2Proof

/-- The number whose base-256 digits, least significant first, are the bytes of a list (R52). -/
def leNat (bs : List Byte) : Nat := bs.foldr (fun b acc => b.toNat + 256 * acc) 0

/-- Byte lane `k` of a word: `v[8k+7:8k]` (R52). -/
def laneByte {w : Nat} (v : BitVec w) (k : Nat) : Byte := v.extractLsb' (8 * k) 8

/-- The 32-bit word whose byte lanes 0..3 are the given bytes (R52). -/
def wordOfLanes (b0 b1 b2 b3 : Byte) : Word32 := BitVec.ofNat 32 (leNat [b0, b1, b2, b3])

/-- Field OPC, bits 7:0 (R70). -/
def opcField (cmd : Word32) : BitVec 8 := cmd.extractLsb' 0 8

/-- Field REMLEN, bits 13:8 (R70). -/
def remlenField (cmd : Word32) : BitVec 6 := cmd.extractLsb' 8 6

/-- Field RSVD, bits 31:14 (R70). -/
def rsvdField (cmd : Word32) : BitVec 18 := cmd.extractLsb' 14 18

/-- Why a command word, or a byte string, is no command. -/
inductive DecodeError where
  /-- OPC is in 0x04..0xFF (R74, error OPCODE). -/
  | opcode
  /-- OPC is in 0x00..0x03, and RSVD is not zero, or REMLEN is not zero on a command other than FINAL (R74, error RSVD). -/
  | rsvd
  /-- Not exactly one 32-bit word (R75); such an access is refused with BUS before any decoding (R51). -/
  | length
  deriving DecidableEq, Repr

/-- The command a word stands for. The tests are in the order of the error priority, OPCODE before RSVD (R74, R120). -/
def decode (cmd : Word32) : Except DecodeError Instr :=
  if 3 < (opcField cmd).toNat then .error .opcode
  else if rsvdField cmd ≠ 0 ∨ (opcField cmd ≠ 3 ∧ remlenField cmd ≠ 0) then .error .rsvd
  else if opcField cmd = 0 then .ok .nop
  else if opcField cmd = 1 then .ok .init
  else if opcField cmd = 2 then .ok .absorb
  else .ok (.final (remlenField cmd).toNat)

/-- The command four bytes in window order stand for (R52, R75). -/
def decodeBytes : List Byte → Except DecodeError Instr
  | [b0, b1, b2, b3] => decode (wordOfLanes b0 b1 b2 b3)
  | _ => .error .length

/-- OPC of a command (R72). -/
def Instr.opc : Instr → BitVec 8
  | .nop => 0
  | .init => 1
  | .absorb => 2
  | .final _ => 3

/-- REMLEN of a command: the remainder length of FINAL, 0 for every other command (R70). -/
def Instr.remlen : Instr → BitVec 6
  | .nop => 0
  | .init => 0
  | .absorb => 0
  | .final r => BitVec.ofNat 6 r

/-- The word of a command: RSVD, REMLEN and OPC side by side (R70, R73). -/
def encode (i : Instr) : Word32 := (0 : BitVec 18) ++ i.remlen ++ i.opc

/-- The four bytes of a command in window order (R52). -/
def encodeBytes (i : Instr) : List Byte := (List.range 4).map (laneByte (encode i))

/-- A row of the opcode map (R72). -/
structure OpcodeRow where
  opc : BitVec 8
  pattern : Word32
  mask : Word32
  deriving DecidableEq, Repr

/-- The opcode map of R72 and spec/opcode_table.json, in its order: NOP, INIT, ABSORB, FINAL. -/
def opcodeTable : List OpcodeRow :=
  [⟨0x00, 0x00000000, 0xFFFFFFFF⟩, ⟨0x01, 0x00000001, 0xFFFFFFFF⟩,
   ⟨0x02, 0x00000002, 0xFFFFFFFF⟩, ⟨0x03, 0x00000003, 0xFFFFC0FF⟩]

/-- `(cmd and mask) = match` (R72). -/
def OpcodeRow.picks (row : OpcodeRow) (cmd : Word32) : Bool := cmd &&& row.mask == row.pattern

/-- The low `nbits` bits of a table word, every bit above them 0. -/
def tableBits (nbits w : Nat) : Nat := w % 2 ^ nbits

/-- What the decoder reads from a word of the opcode table, laid out as the window stores it; `none` where it refuses.
A word with a bit above bit 31 is no command (R75). -/
def decodeTableWord (nbits w : Nat) : Option Instr :=
  if 2 ^ 32 ≤ tableBits nbits w then none
  else (decodeBytes ((List.range 4).map (laneByte (BitVec.ofNat 32 (tableBits nbits w))))).toOption

end Sys2Proof
end

