-- ==== Sys2Proof/Machine/Datapath.lean ====
section
/-! DEFINITION. The datapath of IS-CORE as pure functions on blocks (spec/40_datapath.md). Each function takes the
instance's parameters where it reads a table or an order parameter (R80). The functions that build a block are marked
irreducible only so that no proof evaluates 64 bytes by accident; their lemmas stand in Laws/Datapath.lean. -/

namespace Sys2Proof.Machine

/-! ### Block views -/

/-- `WORD(B, w)`: bytes `8w..8w+7` as a little-endian 64-bit word (R81). -/
def wordView (b : Block) (w : Fin 8) : Word64 :=
  BitVec.ofNat 64 (leNat ((List.finRange 8).map fun k => b[8 * w.val + k.val]))

/-- `UNWORD(v_0, …, v_7)`: the block whose byte `8w+k` is `v_w[8k+7:8k]` (R81). -/
@[irreducible] def unword (v : Vector Word64 8) : Block :=
  Vector.ofFn fun i => laneByte v[i.val / 8] (i.val % 8)

/-- `INT(B)`: the block as an integer below 2^512, byte 0 most significant in order BE, least significant in order LE (R82). -/
def intView (o : IntOrder) (b : Block) : Nat :=
  match o with
  | .be => leNat b.toList.reverse
  | .le => leNat b.toList

/-- The weight exponent of byte `i` in the integer view: the byte stands at `256 ^ byteRank o i` (R82). -/
def byteRank (o : IntOrder) (i : Nat) : Nat :=
  match o with
  | .be => 63 - i
  | .le => i

/-- `BLK(v)`: the block whose integer view is `v`, for `v` below 2^512 (R82); a larger `v` is reduced modulo 2^512. -/
@[irreducible] def blkView (o : IntOrder) (v : Nat) : Block :=
  Vector.ofFn fun i => BitVec.ofNat 8 (v / 256 ^ byteRank o i.val)

/-- A block read from the front of a byte list, missing bytes taken as 0. -/
@[irreducible] def blockOfBytes (bs : List Byte) : Block :=
  Vector.ofFn fun i => bs.getD i.val 0

/-! ### The layers X, S, P, L -/

/-- `X(a, b)`: bytewise exclusive or (R83). -/
@[irreducible] def layerX (a b : Block) : Block := Vector.ofFn fun i => a[i] ^^^ b[i]

/-- `S(B)`: every byte through SBOX (R84). -/
@[irreducible] def layerS (p : Params) (b : Block) : Block := Vector.ofFn fun i => p.sbox[b[i].toFin]

/-- `P(B)`: the gather `out[i] = B[PERM[i]]` (R85). -/
@[irreducible] def layerP (p : Params) (b : Block) : Block := Vector.ofFn fun i => b[p.perm[i]]

/-- `Lw(v)`: the exclusive or of every `A[j]` for which bit `j` of `v` is set (R86). -/
@[irreducible] def linearWord (p : Params) (v : Word64) : Word64 :=
  (List.finRange 64).foldl (fun acc (j : Fin 64) => if v.getLsbD j.val then acc ^^^ p.basis[j] else acc) 0

/-- `L(B)`: `Lw` on each of the eight words (R87). -/
def layerL (p : Params) (b : Block) : Block :=
  unword (Vector.ofFn fun w => linearWord p (wordView b w))

/-! ### Round function, key schedule, block transform, compression -/

/-- `LPSX(a, k) = L(P(S(X(a, k))))` (R88). -/
def lpsx (p : Params) (a k : Block) : Block := layerL p (layerP p (layerS p (layerX a k)))

/-- The keys that follow from key `k` and the round constants still to be used, `k` itself first (R89). -/
def keysFrom (p : Params) (k : Block) : List Block → List Block
  | [] => [k]
  | c :: cs => k :: keysFrom p (lpsx p k c) cs

/-- `KS(K)`: the 13 round keys, the seed first, one round constant for each later key in ascending order (R89). -/
def keySchedule (p : Params) (seed : Block) : List Block := keysFrom p seed p.roundConst.toList

/-- `E(keys, m)`: one full round per key, first key first (R90). -/
def transformE (p : Params) (keys : List Block) (m : Block) : Block := keys.foldl (lpsx p) m

/-- `G(h, m, n)`: the compression function (R91). -/
def compress (p : Params) (h m n : Block) : Block :=
  layerX (layerX (transformE p (keySchedule p (lpsx p h n)) m) h) m

/-! ### 512-bit arithmetic -/

/-- `ADD512(a, b)`: addition modulo 2^512 in the integer view (R92). -/
def add512 (o : IntOrder) (a b : Block) : Block :=
  blkView o ((intView o a + intView o b) % 2 ^ 512)

/-- `ENCODE(v)`: a counter increment as a block (R93). -/
def encodeCount (o : IntOrder) (v : Nat) : Block := blkView o (v % 2 ^ 512)

/-! ### Padding -/

/-- `LE64(v)`: the fixed little-endian length field (R94). -/
def le64 (v : Nat) : List Byte := (List.range 8).map (laneByte (BitVec.ofNat 64 v))

/-- The padded length in bytes of a remainder of `r` bytes (R94). -/
def paddedLength (r : Nat) : Nat := if r ≤ 55 then 64 else 128

/-- `PAD(R)`: the remainder, the marker 0x80, zero bytes, and the remainder's bit length (R94). -/
def pad (rem : List Byte) : List Byte :=
  rem ++ [0x80] ++ List.replicate (paddedLength rem.length - rem.length - 9) 0 ++ le64 (8 * rem.length)

/-- `PADBLOCKS(R)`: the blocks FINAL compresses for a remainder, in order (R95). -/
def padBlocks (o : Pad2Order) (rem : List Byte) : List Block :=
  let q := pad rem
  let p0 := blockOfBytes q
  let p1 := blockOfBytes (q.drop 64)
  if q.length = 64 then [p0]
  else match o with
    | .p0ThenP1 => [p0, p1]
    | .p1ThenP0 => [p1, p0]
    | .p0Only => [p0]

/-! ### Table checks -/

/-- `BIJ8(SBOX)`: each value 0..255 stands in SBOX exactly once (R96). -/
def bij8 (p : Params) : Bool :=
  (List.range 256).all fun v => p.sbox.toList.count (BitVec.ofNat 8 v) == 1

/-- `BIJ6(PERM)`: each value 0..63 stands in PERM exactly once (R96). -/
def bij6 (p : Params) : Bool :=
  (List.finRange 64).all fun v => p.perm.toList.count v == 1

/-! ### The hash state through one command

The triple of R22 to R24 and what ABSORB and FINAL make of it (R124, R125). DIGEST is built from the same functions (R150). -/

/-- The hash state H, N, SIGMA. -/
structure Chain where
  h : Block
  n : Block
  sigma : Block
  deriving DecidableEq, Repr

/-- The start state H = N = SIGMA = ZERO (R123). -/
def chainStart : Chain := ⟨zeroBlock, zeroBlock, zeroBlock⟩

/-- One full block: G with the N from before, then N advances by 512 bits and SIGMA by the block (R124). -/
def absorbBlock (p : Params) (c : Chain) (m : Block) : Chain where
  h := compress p c.h m c.n
  n := add512 p.intOrder c.n (encodeCount p.intOrder 512)
  sigma := add512 p.intOrder c.sigma m

/-- The padding branch of FINAL for a remainder that is not empty: every padded block is compressed with the N from
before, N advances once by the remainder's bit length, SIGMA by every padded block (R125). -/
def absorbRemainder (p : Params) (c : Chain) (rem : List Byte) : Chain where
  h := (padBlocks p.pad2Order rem).foldl (fun h b => compress p h b c.n) c.h
  n := add512 p.intOrder c.n (encodeCount p.intOrder (8 * rem.length))
  sigma := (padBlocks p.pad2Order rem).foldl (add512 p.intOrder) c.sigma

/-- The two finalization compressions, N first, then SIGMA, each with counter argument ZERO (R125). -/
def finalizeChain (p : Params) (c : Chain) : Chain :=
  { c with h := compress p (compress p c.h c.n zeroBlock) c.sigma zeroBlock }

/-- The whole of FINAL on the hash state; an empty remainder skips the padding branch (R125). -/
def finishChain (p : Params) (c : Chain) (rem : List Byte) : Chain :=
  finalizeChain p (if rem.length = 0 then c else absorbRemainder p c rem)

end Sys2Proof.Machine
end

