-- ==== Sys2Proof/Machine/State.lean ====
section
/-! DEFINITION. The state of IS-CORE (spec/10_state.md R43), the turns of the outside world, and the state after reset
(R44, spec/70_reset_and_hazards.md R190). -/

namespace Sys2Proof.Machine

/-- `STATUS.PHASE` (R31, R32). The codes 5, 6, 7 never occur, so they have no constructor (log entry 15). -/
inductive Phase where
  /-- The self-test after reset is running. -/
  | selfTest
  /-- The self-test passed, and no digest computation has been started since reset. -/
  | idle
  /-- INIT has completed, and ABSORB or FINAL may be issued. -/
  | absorbing
  /-- FINAL has completed, and H holds the digest. -/
  | done
  /-- The self-test found SBOX or PERM not a bijection. -/
  | cfgFault
  deriving DecidableEq, Repr

/-- `STATUS.ERR_CODE` (R162). The codes 9 to 15 never occur, so they have no constructor (log entry 15). -/
inductive ErrorCode where
  | none
  | cfg
  | busy
  | opcode
  | rsvd
  | seq
  | bus
  | wbusy
  | faulted
  deriving DecidableEq, Repr

/-- The width of a bus access (R51, R161). -/
inductive AccessSize where
  | bits8
  | bits16
  | bits32
  /-- 64 bits or wider. -/
  | wider
  deriving DecidableEq, Repr

/-- A host access to the register window (R50, R51). A write that is not 32 bits wide is always refused, so its data
are never used and 32 bits of data serve every size (log entry 12). -/
inductive Access where
  | read (size : AccessSize) (off : Offset)
  | write (size : AccessSize) (off : Offset) (v : Word32)
  deriving DecidableEq, Repr

/-- One turn of the interleaving of R63: which agent moves, and what it does (log entry 2). -/
inductive Turn where
  /-- The host performs one bus access (R63). -/
  | access (a : Access)
  /-- The platform raises the hardware reset (R190). -/
  | hardReset
  /-- The core sequencer takes its enabled step, if it has one (R63, R200). -/
  | core
  deriving DecidableEq, Repr

/-- Why the machine stops. -/
inductive Fault where
  /-- PEND holds the word `cmd`, which no row of the opcode map matches. The core sequencer's step raises it. No rule produces
  such a state (R120 accepts only words that decode) and no rule gives it an effect, so it is a stuck state. Safe: log entry 8. -/
  | illegalPending (cmd : Word32)
  deriving DecidableEq, Repr

/-- Why an instruction has no meaning. -/
inductive Refusal where
  /-- The instruction of that mnemonic has no meaning in the model yet. Raised by an arm of `exec` only; no arm raises it. Safe. -/
  | notModelled (mnemonic : String)
  deriving DecidableEq, Repr

/-- The state of IS-CORE. The first field is fixed per instance and written by nothing (R5, R8); the next thirteen are the
record of R43; the last two are the model's own: what the outside world will do, and what its reads have returned. -/
structure State where
  /-- The ROM tables and the order parameters of this instance (R27 to R30, R37; log entry 4). -/
  params : Params
  /-- H, the chaining value (R22). -/
  h : Block
  /-- N, the counter block (R23). -/
  n : Block
  /-- SIGMA, the checksum block (R24). -/
  sigma : Block
  /-- MBUF, the message buffer (R25). -/
  mbuf : Block
  /-- STATUS.PHASE (R32). -/
  phase : Phase
  /-- PEND, the pending command word (R40). -/
  pend : Option Word32
  /-- CTRL.IE_DONE (R33). -/
  ieDone : Bool
  /-- CTRL.IE_ERR (R33). -/
  ieErr : Bool
  /-- EVENT.CMD_DONE (R34). -/
  cmdDone : Bool
  /-- EVENT.ERR (R34). -/
  err : Bool
  /-- STATUS.ERR_CODE (R31). -/
  errCode : ErrorCode
  /-- STATUS.ERR_OVF (R31). -/
  errOvf : Bool
  /-- ERRINFO (R35). -/
  errInfo : Word32
  /-- The turns that come next; when the list is empty, the core moves (log entry 2). -/
  schedule : List Turn
  /-- The words that host reads have returned, oldest first (R128; log entry 3). -/
  replies : List Word32
  deriving DecidableEq, Repr

/-- The state of an instance right after reset, before its self-test (R44, R190). -/
def State.resetOf (p : Params) : State where
  params := p
  h := zeroBlock
  n := zeroBlock
  sigma := zeroBlock
  mbuf := zeroBlock
  phase := .selfTest
  pend := none
  ieDone := false
  ieErr := false
  cmdDone := false
  err := false
  errCode := .none
  errOvf := false
  errInfo := 0
  schedule := []
  replies := []

/-- The machine right after reset (R44), for the instance `Config.params` (log entry 4). -/
def State.reset : State := State.resetOf Config.params

end Sys2Proof.Machine
end

