-- ==== Sys2Proof/Machine/Flags.lean ====
section
/-! DEFINITION. The status bits and the words that show them: BUSY and `irq` (spec/10_state.md R38, R40), the CTRL, STATUS,
EVENT and CONFIG words (R31, R33, R34, R37), the ERRINFO formats (spec/60_exceptions.md R161) and the phase legality of a
command (spec/41_commands.md R126). -/

namespace Sys2Proof.Machine

/-- `STATUS.BUSY`: a command is pending, or the self-test runs (R40). -/
def State.busy (s : State) : Bool := s.pend.isSome || decide (s.phase = .selfTest)

/-- The level of the output `irq` (R38). -/
def State.irq (s : State) : Bool := (s.cmdDone && s.ieDone) || (s.err && s.ieErr)

/-- The code of a phase in STATUS bits 3:1 (R31). -/
def phaseCode : Phase → BitVec 3
  | .selfTest => 0
  | .idle => 1
  | .absorbing => 2
  | .done => 3
  | .cfgFault => 4

/-- The code of an error in STATUS bits 11:8 (R162). -/
def errorNumber : ErrorCode → BitVec 4
  | .none => 0
  | .cfg => 1
  | .busy => 2
  | .opcode => 3
  | .rsvd => 4
  | .seq => 5
  | .bus => 6
  | .wbusy => 7
  | .faulted => 8

/-- A flag as bit 0 of a register word. -/
def bit (b : Bool) : Word32 := if b then 1 else 0

/-- The word a read of CTRL returns; SRST reads 0 (R33, R128). -/
def ctrlWord (s : State) : Word32 := bit s.ieDone ||| bit s.ieErr <<< 1

/-- The word a read of STATUS returns (R31, R128). -/
def statusWord (s : State) : Word32 :=
  bit s.busy ||| (phaseCode s.phase).setWidth 32 <<< 1 ||| (errorNumber s.errCode).setWidth 32 <<< 8
    ||| bit s.errOvf <<< 12 ||| bit s.irq <<< 13

/-- The word a read of EVENT returns (R34, R128). -/
def eventWord (s : State) : Word32 := bit s.cmdDone ||| bit s.err <<< 1

/-- CONFIG bit 0 (R37). -/
def intOrderCode : IntOrder → Word32
  | .be => 0
  | .le => 1

/-- CONFIG bits 2:1 (R37). -/
def pad2OrderCode : Pad2Order → Word32
  | .p0ThenP1 => 0
  | .p1ThenP0 => 1
  | .p0Only => 2

/-- The word a read of CONFIG returns (R37, R128). -/
def configWord (p : Params) : Word32 := intOrderCode p.intOrder ||| pad2OrderCode p.pad2Order <<< 1

/-- `size_code` of an access (R161). -/
def sizeCode : AccessSize → Nat
  | .bits8 => 0
  | .bits16 => 1
  | .bits32 => 2
  | .wider => 3

/-- The ERRINFO word of an access error: `info(off, write)` (R161). -/
def accessInfo (write : Bool) (size : AccessSize) (off : Offset) : Word32 :=
  BitVec.ofNat 32 ((if write then 2 ^ 31 else 0) + sizeCode size * 2 ^ 12 + off.toNat)

/-- The ERRINFO word of the self-test error (R161). -/
def selfTestInfo (p : Params) : Word32 :=
  BitVec.ofNat 32 (2 ^ 30 + (if bij8 p then 0 else 1) + (if bij6 p then 0 else 2))

/-- `LEGAL(opc, phase)` (R126). In SELFTEST and CFG_FAULT the test is never reached; it is false there (log entry 11). -/
def legal : Instr → Phase → Bool
  | .nop, .idle => true
  | .nop, .absorbing => true
  | .nop, .done => true
  | .init, .idle => true
  | .init, .absorbing => true
  | .init, .done => true
  | .absorb, .absorbing => true
  | .final _, .absorbing => true
  | _, _ => false

/-- The error a word that does not decode is refused with (R74); a byte string that is not one word is an access of a
wrong width, refused with BUS (R51, R75). -/
def decodeErrorCode : DecodeError → ErrorCode
  | .opcode => .opcode
  | .rsvd => .rsvd
  | .length => .bus

end Sys2Proof.Machine
end

