-- ==== Sys2Proof/Machine/Operands.lean ====
section
/-! DEFINITION. What a command and a bus access operate on: the remainder operand of FINAL (spec/30_encoding.md R71),
the words of a block register (spec/20_memory.md R54) and the register map (R53). -/

namespace Sys2Proof.Machine

/-- The remainder operand of FINAL: `MBUF[0..r-1]` (R71, R125). -/
def remainder (buf : Block) (r : Nat) : List Byte := buf.toList.take r

/-- The word at `b + 4w` of a block register: bytes `4w..4w+3`, little-endian lanes (R54). -/
def blockWord (b : Block) (w : Fin 16) : Word32 :=
  wordOfLanes b[4 * w.val] b[4 * w.val + 1] b[4 * w.val + 2] b[4 * w.val + 3]

/-- A block with bytes `4w..4w+3` replaced by the byte lanes of `v` (R54). -/
@[irreducible] def setBlockWord (b : Block) (w : Fin 16) (v : Word32) : Block :=
  Vector.ofFn fun i => if i.val / 4 = w.val then laneByte v (i.val % 4) else b[i]

/-- A register of the window; a block register is reached as 16 words (R53). -/
inductive Reg where
  | ctrl
  | status
  | event
  | errInfo
  | cmd
  | config
  | mbuf (w : Fin 16)
  | h (w : Fin 16)
  | n (w : Fin 16)
  | sigma (w : Fin 16)
  deriving DecidableEq, Repr

/-- The register at a window offset, `none` where the offset is unmapped (R53, R56). An offset inside a mapped word reaches
that word's register; `target` refuses it as misaligned. -/
def regAt (off : Offset) : Option Reg :=
  let o := off.toNat
  if o < 0x004 then some .ctrl
  else if o < 0x008 then some .status
  else if o < 0x00C then some .event
  else if o < 0x010 then some .errInfo
  else if o < 0x014 then some .cmd
  else if o < 0x018 then some .config
  else if o < 0x040 then none
  else if o < 0x080 then some (.mbuf (Fin.ofNat 16 ((o - 0x040) / 4)))
  else if o < 0x0C0 then some (.h (Fin.ofNat 16 ((o - 0x080) / 4)))
  else if o < 0x100 then some (.n (Fin.ofNat 16 ((o - 0x0C0) / 4)))
  else if o < 0x140 then some (.sigma (Fin.ofNat 16 ((o - 0x100) / 4)))
  else none

/-- What an access of a given width at a given offset reaches: `none` when it breaks the width or alignment rule (R51) or
the offset is unmapped (R56). -/
def target (size : AccessSize) (off : Offset) : Option Reg :=
  if size = .bits32 ∧ off.toNat % 4 = 0 then regAt off else none

/-- The window offset an access at a host address reaches; an address outside the window is no access to IS-CORE
(R50; log entry 5). -/
def offsetAt (hostAddress : Nat) : Option Offset :=
  if Config.windowBase ≤ hostAddress ∧ hostAddress < Config.windowBase + 4096 then
    some (BitVec.ofNat 12 (hostAddress - Config.windowBase))
  else none

end Sys2Proof.Machine
end

