-- ==== Sys2Proof/Machine/Ops.lean ====
section
/-! DEFINITION. The shared operations on the state: raising and clearing an error (spec/60_exceptions.md R160, R171), the
reset (spec/70_reset_and_hazards.md R190), the commit of a completion step (spec/41_commands.md R121), and the register updates. -/

namespace Sys2Proof.Machine

/-- `raise Error(code, info)`: the first error is captured, a later one only sets ERR_OVF (R160). The state continues
from here: there is no trap entry (R170). -/
def raiseError (code : ErrorCode) (info : Word32) (s : State) : State :=
  if s.err then { s with errOvf := true }
  else { s with errCode := code, errInfo := info, err := true }

/-- The return from an error: ERR, ERR_CODE, ERR_OVF and ERRINFO are cleared together (R131, R171). -/
def clearError (s : State) : State :=
  { s with err := false, errCode := .none, errOvf := false, errInfo := 0 }

/-- EVENT.CMD_DONE is cleared (R131). -/
def clearDone (s : State) : State := { s with cmdDone := false }

/-- The one step of a hardware or a soft reset (R190). The instance's parameters stay (R44), and so do the outside world's
turns and the words it has already read, which are no part of the core. -/
def resetCore (s : State) : State :=
  { State.resetOf s.params with schedule := s.schedule, replies := s.replies }

/-- The commit of a completion step: the results are written, PEND is emptied, CMD_DONE is set (R121). -/
def commit (c : Chain) (phase : Phase) (s : State) : State :=
  { s with h := c.h, n := c.n, sigma := c.sigma, phase := phase, pend := none, cmdDone := true }

/-- The hash state the registers hold. -/
def State.chain (s : State) : Chain := ⟨s.h, s.n, s.sigma⟩

/-- The interrupt enables are written (R130). -/
def setEnables (done err : Bool) (s : State) : State := { s with ieDone := done, ieErr := err }

/-- One word of MBUF is written (R132). -/
def setMbufWord (w : Fin 16) (v : Word32) (s : State) : State :=
  { s with mbuf := setBlockWord s.mbuf w v }

/-- A command word becomes pending (R120). -/
def setPending (cmd : Word32) (s : State) : State := { s with pend := some cmd }

/-- STATUS.PHASE is written. -/
def setPhase (phase : Phase) (s : State) : State := { s with phase := phase }

/-- A read returns a word to the host (R128). -/
def reply (v : Word32) (s : State) : State := { s with replies := s.replies ++ [v] }

/-- The schedule still to come is replaced. -/
def setSchedule (ts : List Turn) (s : State) : State := { s with schedule := ts }

end Sys2Proof.Machine
end

