-- ==== Sys2Proof/Machine/Commands.lean ====
section
/-! DEFINITION. The meaning of the four commands: the completion step of each (spec/41_commands.md R121 to R125). -/

namespace Sys2Proof.Machine

/-- NOP changes no register but PEND and EVENT.CMD_DONE (R122). -/
def execNop (s : State) : Host.Outcome State Fault Refusal := .next (commit s.chain s.phase s)

/-- INIT clears H, N and SIGMA and enters ABSORBING (R123). -/
def execInit (s : State) : Host.Outcome State Fault Refusal := .next (commit chainStart .absorbing s)

/-- ABSORB compresses the 64 bytes of MBUF; the phase stays (R124). -/
def execAbsorb (s : State) : Host.Outcome State Fault Refusal :=
  .next (commit (absorbBlock s.params s.chain s.mbuf) s.phase s)

/-- FINAL `r` pads the remainder `MBUF[0..r-1]` if `r` is not 0, runs the finalization and enters DONE (R125). -/
def execFinal (r : Nat) (s : State) : Host.Outcome State Fault Refusal :=
  .next (commit (finishChain s.params s.chain (remainder s.mbuf r)) .done s)

end Sys2Proof.Machine
end

