-- ==== Sys2Proof/Machine/Window.lean ====
section
/-! DEFINITION. Host accesses to the register window (spec/41_commands.md R120, R128 to R132; spec/20_memory.md R51 to R56). -/

namespace Sys2Proof.Machine

/-- The word a read of a register returns; CMD reads 0 (R128). -/
def readReg (r : Reg) (s : State) : Word32 :=
  match r with
  | .ctrl => ctrlWord s
  | .status => statusWord s
  | .event => eventWord s
  | .errInfo => s.errInfo
  | .cmd => 0
  | .config => configWord s.params
  | .mbuf w => blockWord s.mbuf w
  | .h w => blockWord s.h w
  | .n w => blockWord s.n w
  | .sigma w => blockWord s.sigma w

/-- `BusRead(off)`: a refused read returns 0 and raises BUS, any other read returns the register's word and changes no
register (R128, R60). -/
def busRead (size : AccessSize) (off : Offset) (s : State) : State :=
  match target size off with
  | none => reply 0 (raiseError .bus (accessInfo false size off) s)
  | some r => reply (readReg r s) s

/-- The acceptance check of a command word; the order of the tests is the error priority (R120, R169). -/
def acceptCommand (cmd : Word32) (s : State) : State :=
  if s.phase = .cfgFault then raiseError .faulted cmd s
  else if s.busy then raiseError .busy cmd s
  else match decode cmd with
    | .error e => raiseError (decodeErrorCode e) cmd s
    | .ok i => if legal i s.phase then setPending cmd s else raiseError .seq cmd s

/-- A CTRL write: bit 31 resets, otherwise bits 1:0 set the enables (R130). -/
def writeCtrl (v : Word32) (s : State) : State :=
  if v.getLsbD 31 then resetCore s else setEnables (v.getLsbD 0) (v.getLsbD 1) s

/-- The part of an EVENT write that bit 0 asks for (R131). -/
def writeEventDone (v : Word32) (s : State) : State := if v.getLsbD 0 then clearDone s else s

/-- An EVENT write: bit 0 clears CMD_DONE, bit 1 clears the error capture (R131). -/
def writeEvent (v : Word32) (s : State) : State :=
  if v.getLsbD 1 then clearError (writeEventDone v s) else writeEventDone v s

/-- An MBUF write, refused with WBUSY while BUSY = 1 (R132). -/
def writeMbuf (off : Offset) (w : Fin 16) (v : Word32) (s : State) : State :=
  if s.busy then raiseError .wbusy (accessInfo true .bits32 off) s else setMbufWord w v s

/-- `BusWrite(off, v)` (R129): a refused write and a write to a read-only register raise BUS. -/
def busWrite (size : AccessSize) (off : Offset) (v : Word32) (s : State) : State :=
  match target size off with
  | some .ctrl => writeCtrl v s
  | some .event => writeEvent v s
  | some .cmd => acceptCommand v s
  | some (.mbuf w) => writeMbuf off w v s
  | some .status => raiseError .bus (accessInfo true size off) s
  | some .errInfo => raiseError .bus (accessInfo true size off) s
  | some .config => raiseError .bus (accessInfo true size off) s
  | some (.h _) => raiseError .bus (accessInfo true size off) s
  | some (.n _) => raiseError .bus (accessInfo true size off) s
  | some (.sigma _) => raiseError .bus (accessInfo true size off) s
  | none => raiseError .bus (accessInfo true size off) s

/-- One host access, in its full effect (R63). -/
def hostAccess (a : Access) (s : State) : State :=
  match a with
  | .read size off => busRead size off s
  | .write size off v => busWrite size off v s

end Sys2Proof.Machine
end

