-- ==== Sys2Proof/Machine/Sequencer.lean ====
section
/-! DEFINITION. The steps of the core sequencer and the turns of the interleaving: the completion step
(spec/41_commands.md R121), the self-test end (spec/70_reset_and_hazards.md R191), and one turn (spec/20_memory.md R63). -/

namespace Sys2Proof.Machine

/-- The self-test end (R191): IDLE when both tables are bijections, otherwise CFG_FAULT with error CFG. -/
def selfTestEnd (s : State) : State :=
  if bij8 s.params && bij6 s.params then setPhase .idle s
  else raiseError .cfg (selfTestInfo s.params) (setPhase .cfgFault s)

/-- The core sequencer's enabled step: the completion of the pending command (R121), else the self-test end (R191). With
neither enabled the core is quiescent and nothing changes (R180; log entry 7). A pending command goes first; no rule makes
a state in which one is pending in SELFTEST (log entry 9). -/
def coreStep (s : State) : Host.Outcome State Fault Refusal :=
  match s.pend with
  | some cmd =>
    match decode cmd with
    | .ok i => exec i s
    | .error _ => .fault (.illegalPending cmd)
  | none => if s.phase = .selfTest then .next (selfTestEnd s) else .next s

/-- One turn of the interleaving (R63). -/
def runTurn (t : Turn) (s : State) : Host.Outcome State Fault Refusal :=
  match t with
  | .access a => .next (hostAccess a s)
  | .hardReset => .next (resetCore s)
  | .core => coreStep s

/-- The turn a step takes: the head of the schedule, or the core's when the schedule is empty (log entry 2). -/
def State.nextTurn (s : State) : Turn := s.schedule.headD .core

/-- The schedule under which the core moves next: an empty one, or one with a core turn in front. -/
def coreNext : List Turn → List Turn
  | [] => []
  | .core :: ts => .core :: ts
  | .access a :: ts => .core :: .access a :: ts
  | .hardReset :: ts => .core :: .hardReset :: ts

/-- The phase a command is pending in: the present one where the command is legal in it, else ABSORBING, where every
command is legal (R126; log entry 10). -/
def phaseFor (cmd : Word32) (phase : Phase) : Phase :=
  match decode cmd with
  | .ok i => if legal i phase then phase else .absorbing
  | .error _ => phase

end Sys2Proof.Machine
end

