-- ==== Sys2Proof/Machine/Step.lean ====
section
/-! DEFINITION. One step of IS-CORE: the next turn of the schedule, or, when none is left, the core's step
(spec/20_memory.md R63, spec/70_reset_and_hazards.md R200; log entry 2). -/

namespace Sys2Proof.Machine

/-- One step. The turn it takes is removed from the schedule first. -/
def step (s : State) : Host.Outcome State Fault Refusal :=
  match s.schedule with
  | [] => coreStep s
  | t :: ts => runTurn t (setSchedule ts s)

/-- `s` with the command word `w` pending, accepted, and the core's turn next. IS-CORE fetches no instruction (R21): the
command a core step runs is the one in PEND (R121; log entry 10). -/
def State.withFetchWord (s : State) (nbits w : Nat) : State :=
  { s with
    pend := some (BitVec.ofNat 32 (tableBits nbits w))
    phase := phaseFor (BitVec.ofNat 32 (tableBits nbits w)) s.phase
    schedule := coreNext s.schedule }

end Sys2Proof.Machine
end

