-- ==== Sys2Proof/Machine/Digest.lean ====
section
/-! DEFINITION. The reference digest function (spec/42_digest.md R150, R151) and the host protocol that makes IS-CORE
compute it, as turns of the schedule, in the form that polls STATUS and in the form that waits for the interrupt (R152,
spec/30_encoding.md R77, R78). -/

namespace Sys2Proof.Machine

/-! ### The reference function -/

/-- Full block `k` of a message, `k` counted from 1: the bytes `M[n-64k .. n-64k+63]` (R151). -/
def fullBlock (msg : List Byte) (k : Nat) : Block := blockOfBytes (msg.drop (msg.length - 64 * k))

/-- The full blocks of a message, tail first (R151). -/
def fullBlocks (msg : List Byte) : List Block :=
  (List.range (msg.length / 64)).map fun k => fullBlock msg (k + 1)

/-- The leading `n mod 64` bytes of a message (R151). -/
def messageRemainder (msg : List Byte) : List Byte := msg.take (msg.length % 64)

/-- The hash state at the end of `DIGEST(M)` (R150). -/
def digestChain (p : Params) (msg : List Byte) : Chain :=
  finishChain p ((fullBlocks msg).foldl (absorbBlock p) chainStart) (messageRemainder msg)

/-- `DIGEST(M)` (R150). -/
def digest (p : Params) (msg : List Byte) : Block := (digestChain p msg).h

/-! ### The host protocol -/

/-- `WR off, v` (R77). -/
def wr (off : Offset) (v : Word32) : Turn := .access (.write .bits32 off v)

/-- `RD off` (R77). -/
def rd (off : Offset) : Turn := .access (.read .bits32 off)

/-- The host issues a command: the CMD write of its word (R77). -/
def issue (i : Instr) : Turn := wr 0x010 (encode i)

/-- `WAIT`: the host polls STATUS `polls` times while the core has not moved, the core takes its step, and the next poll
ends the loop (R78; log entry 19). -/
def waitTurns (polls : Nat) : List Turn := List.replicate polls (rd 0x004) ++ [.core, rd 0x004]

/-- The offset of word `w` of MBUF (R54). -/
def mbufOffset (w : Nat) : Offset := BitVec.ofNat 12 (0x040 + 4 * w)

/-- The offset of word `w` of H (R54). -/
def hOffset (w : Nat) : Offset := BitVec.ofNat 12 (0x080 + 4 * w)

/-- The first `count` word writes of `LOADBLK B` (R78). -/
def loadWords (b : Block) (count : Nat) : List Turn :=
  (List.range count).map fun w => wr (mbufOffset w) (blockWord b (Fin.ofNat 16 w))

/-- `LOADBLK B`: 16 word writes (R78). -/
def loadBlock (b : Block) : List Turn := loadWords b 16

/-- `LOADREM R, r`: the words that hold the remainder, bytes past its end taken as 0 (R78). -/
def loadRemainder (rem : List Byte) : List Turn := loadWords (blockOfBytes rem) ((rem.length + 3) / 4)

/-- `READH`: 16 word reads (R78). -/
def readHash : List Turn := (List.range 16).map fun w => rd (hOffset w)

/-- `CLREV` (R78). -/
def clearEvents : Turn := wr 0x008 0x00000003

/-- The block the host puts together from the words it read (R78, READH). -/
def blockOfWords (ws : List Word32) : Block :=
  Vector.ofFn fun i => laneByte (ws.getD (i.val / 4) 0) (i.val % 4)

/-- One block of the protocol: LOADBLK, ABSORB, WAIT (R152). -/
def absorbTurns (b : Block) (polls : Nat) : List Turn := loadBlock b ++ [issue .absorb] ++ waitTurns polls

/-- The protocol's part for a list of full blocks; `polls` gives the busy polls of each WAIT (R152). -/
def absorbAllTurns : List Block → (Nat → Nat) → List Turn
  | [], _ => []
  | b :: bs, polls => absorbTurns b (polls 0) ++ absorbAllTurns bs fun k => polls (k + 1)

/-- `HASH(M)` with `WAIT` (R152): the turns of the whole protocol. `polls 0` and `polls 1` are the busy polls of the WAITs before and
after INIT, `polls 2` those after FINAL, `polls 3` and on those after each ABSORB. -/
def hashTurns (msg : List Byte) (polls : Nat → Nat) : List Turn :=
  waitTurns (polls 0) ++ [issue .init] ++ waitTurns (polls 1)
    ++ absorbAllTurns (fullBlocks msg) (fun k => polls (k + 3))
    ++ loadRemainder (messageRemainder msg)
    ++ [issue (.final (msg.length % 64))] ++ waitTurns (polls 2)
    ++ readHash

/-! ### The host protocol with the interrupt

R152: "The host may use the interrupt instead of `WAIT`. Then it waits for `irq` with CTRL.IE_DONE = 1, and runs `CLREV`
before each command." Program P3 of spec/95_test_vectors.md is this form. -/

/-- The CTRL write that sets IE_DONE to 1 and IE_ERR as the host likes; P3 leaves IE_ERR 0 (R152; log entry 23). -/
def enableDoneIrq (ieErr : Bool) : Turn := wr 0x000 (if ieErr then 0x00000003 else 0x00000001)

/-- "wait irq": the host makes no access until `irq` is 1, so the core moves (R152; log entry 23). -/
def waitIrqTurns : List Turn := [.core]

/-- One block of the protocol with the interrupt: LOADBLK, ABSORB, wait irq, CLREV (R152, P3). -/
def absorbIrqTurns (b : Block) : List Turn := loadBlock b ++ [issue .absorb] ++ waitIrqTurns ++ [clearEvents]

/-- What comes before INIT is issued in the protocol with the interrupt: WAIT, which the self-test needs since its end sets
no CMD_DONE (spec/70_reset_and_hazards.md R191), the CTRL write, CLREV (P3). -/
def irqPrelude (polls : Nat) (ieErr : Bool) : List Turn := waitTurns polls ++ [enableDoneIrq ieErr, clearEvents]

/-- `HASH(M)` with the interrupt (R152, P3): CLREV before each command, "wait irq" in place of every WAIT but the first;
`polls` is the busy polls of that first WAIT. -/
def hashIrqTurns (msg : List Byte) (polls : Nat) (ieErr : Bool) : List Turn :=
  irqPrelude polls ieErr ++ [issue .init] ++ waitIrqTurns ++ [clearEvents]
    ++ (fullBlocks msg).flatMap absorbIrqTurns
    ++ loadRemainder (messageRemainder msg)
    ++ [issue (.final (msg.length % 64))] ++ waitIrqTurns
    ++ readHash

end Sys2Proof.Machine
end

