-- ==== Sys2Proof/Safety.lean ====
section
/-! DEFINITION. What every state that IS-CORE can be in satisfies, and what a safe outcome is. -/

namespace Sys2Proof

open Sys2Proof.Machine

/-- The invariant of IS-CORE. A state that no run reaches may break it; every step keeps it. -/
structure Inv (s : Machine.State) : Prop where
  /-- A pending word decodes to a command that is legal in the present phase (R120). -/
  pending : ∀ cmd, s.pend = some cmd → ∃ i, decode cmd = .ok i ∧ legal i s.phase = true
  /-- With EVENT.ERR clear, the error capture is clear (R131, R160). -/
  captureClear : s.err = false → s.errCode = .none ∧ s.errOvf = false ∧ s.errInfo = 0
  /-- With EVENT.ERR set, a cause is captured (R160). -/
  captureSet : s.err = true → s.errCode ≠ .none
  /-- A captured configuration error carries the self-test's word, and the tables are at fault (R161, R191). -/
  captureCfg : s.errCode = .cfg → s.errInfo = selfTestInfo s.params ∧ (bij8 s.params && bij6 s.params) = false
  /-- A command-ready phase means that both tables are bijections (R191). -/
  tablesGood : s.phase = .idle ∨ s.phase = .absorbing ∨ s.phase = .done → (bij8 s.params && bij6 s.params) = true
  /-- CFG_FAULT means that one of them is not (R191). -/
  tablesBad : s.phase = .cfgFault → (bij8 s.params && bij6 s.params) = false
  /-- Before the first INIT after a reset the hash state is ZERO (R32, R190, R192). -/
  hashClear : s.phase = .selfTest ∨ s.phase = .idle ∨ s.phase = .cfgFault → s.chain = chainStart
  /-- During the self-test MBUF is ZERO and no command has completed since the reset (R192). -/
  selfTestFresh : s.phase = .selfTest → s.mbuf = zeroBlock ∧ s.cmdDone = false

/-- A safe outcome: the machine goes on, in a state that satisfies the invariant. -/
def SafeOutcome : Host.Outcome Machine.State Fault Refusal → Prop
  | .next s => Inv s
  | .fault _ => False
  | .refused _ => False

end Sys2Proof
end

