-- ==== Sys2Proof/Certificates/Slice0/Obligations.lean ====
section
/-! DEFINITION. The statements for the provers. Each formalises rules of spec/ or a property they imply; the docstring says
which. -/

open Sys2Proof Sys2Proof.Machine

/-! ### Words the statements use -/

/-- Offsets at which R53 places no register. -/
def Sys2Proof.Unmapped (off : Offset) : Prop :=
  (0x018 ≤ off.toNat ∧ off.toNat < 0x040) ∨ 0x140 ≤ off.toNat

/-- An access that breaks the width or alignment rule, or goes to an unmapped offset (R51, R56). -/
def Sys2Proof.Misdirected (size : AccessSize) (off : Offset) : Prop :=
  size ≠ .bits32 ∨ off.toNat % 4 ≠ 0 ∨ Unmapped off

/-- The offsets of STATUS, ERRINFO, CONFIG, H, N and SIGMA (R53, R55). -/
def Sys2Proof.ReadOnly (off : Offset) : Prop :=
  off = 0x004 ∨ off = 0x00C ∨ off = 0x014 ∨ (0x080 ≤ off.toNat ∧ off.toNat < 0x140)

/-- `s` after a served 32-bit read that returned the number `v`. -/
def Sys2Proof.Served (s : Machine.State) (off v : Nat) : Prop :=
  hostAccess (.read .bits32 (BitVec.ofNat 12 off)) s = { s with replies := s.replies ++ [BitVec.ofNat 32 v] }

/-- The 32-bit number at bytes `4w..4w+3` of a block (R54). -/
def Sys2Proof.wordNumber (b : Block) (w : Fin 16) : Nat :=
  b[4 * w.val].toNat + b[4 * w.val + 1].toNat * 2 ^ 8 + b[4 * w.val + 2].toNat * 2 ^ 16
    + b[4 * w.val + 3].toNat * 2 ^ 24

/-- An access that is a soft reset: a CTRL write with bit 31 set (R130). -/
def Sys2Proof.SoftReset (a : Access) : Prop := ∃ v : Word32, a = .write .bits32 0x000 v ∧ v.getLsbD 31 = true

/-- An access that clears the error capture: an EVENT write with bit 1 set (R131). -/
def Sys2Proof.ErrorClear (a : Access) : Prop := ∃ v : Word32, a = .write .bits32 0x008 v ∧ v.getLsbD 1 = true

/-- A phase in which a command can be accepted (R126). -/
def Sys2Proof.CommandPhase (p : Phase) : Prop := p = .idle ∨ p = .absorbing ∨ p = .done

/-- What a CMD write of the word `cmd`, whose OPC is `opc`, does when `ok` says in which phases the command is legal, and
that a word with the same OPC and a bit outside the command's row is refused with RSVD (R120, R126). -/
def Sys2Proof.Issued (opc : BitVec 8) (cmd : Word32) (ok : Phase → Prop) : Prop :=
  ∀ s : Machine.State,
    (s.phase = .cfgFault → hostAccess (.write .bits32 0x010 cmd) s = raiseError .faulted cmd s) ∧
    (s.phase ≠ .cfgFault → s.busy = true → hostAccess (.write .bits32 0x010 cmd) s = raiseError .busy cmd s) ∧
    (s.phase ≠ .cfgFault → s.busy = false → ok s.phase →
      hostAccess (.write .bits32 0x010 cmd) s = { s with pend := some cmd }) ∧
    (s.phase ≠ .cfgFault → s.busy = false → ¬ok s.phase →
      hostAccess (.write .bits32 0x010 cmd) s = raiseError .seq cmd s ∧ (s.phase = .idle ∨ s.phase = .done) ∧ 1 < opc.toNat) ∧
    ∀ w : Word32, s.phase ≠ .cfgFault → s.busy = false → w.extractLsb' 0 8 = opc →
      w.extractLsb' 14 18 ≠ 0 ∨ (opc ≠ 3 ∧ w.extractLsb' 8 6 ≠ 0) →
      hostAccess (.write .bits32 0x010 w) s = raiseError .rsvd w s

/-- Addition of byte lists of one length, least significant byte first, with the carry chain of R92; the last carry is dropped. -/
def Sys2Proof.addBytes (carry : Nat) : List Byte → List Byte → List Byte
  | x :: xs, y :: ys =>
    BitVec.ofNat 8 (x.toNat + y.toNat + carry) :: addBytes ((x.toNat + y.toNat + carry) / 256) xs ys
  | _, _ => []

/-- The identity instantiation TOY-0: SBOX and PERM are the identity, `A[j] = 2^j`, every `C[i]` is ZERO (R97 item 5). -/
def Sys2Proof.Toy0 (p : Params) : Prop :=
  (∀ x : Fin 256, p.sbox[x] = BitVec.ofNat 8 x.val) ∧ (∀ i : Fin 64, p.perm[i] = i) ∧
    (∀ j : Fin 64, p.basis[j] = BitVec.ofNat 64 (2 ^ j.val)) ∧ ∀ i : Fin 12, p.roundConst[i] = zeroBlock

/-! ### Command words -/

/-- The worked encodings of R79, and the three words of R73 without a field. -/
def Obligations.CommandWordsDecode : Prop :=
  decode 0x00000303 = .ok (.final 3) ∧ decode 0x00003F03 = .ok (.final 63) ∧ decode 0x00000003 = .ok (.final 0) ∧
  decode 0x00000004 = .error .opcode ∧ decode 0x00000101 = .error .rsvd ∧ decode 0x00010003 = .error .rsvd ∧
  decode 0x00004003 = .error .rsvd ∧ encode (.final 3) = 0x00000303 ∧
  decode 0x00000000 = .ok .nop ∧ decode 0x00000001 = .ok .init ∧ decode 0x00000002 = .ok .absorb

/-- Decoding an encoded well-formed command gives it back, as a word, as four bytes and as a table word (R70 to R73). -/
def Obligations.DecodeEncodeRoundTrip : Prop :=
  ∀ i : Instr, WellFormed i →
    decode (encode i) = .ok i ∧ decodeBytes (encodeBytes i) = .ok i ∧ decodeTableWord 32 (encode i).toNat = some i

/-- A word that decodes is the encoding of the well-formed command it decodes to (R70 to R74): no bit is ignored. -/
def Obligations.EncodeDecodeRoundTrip : Prop :=
  ∀ (cmd : Word32) (i : Instr), decode cmd = .ok i → WellFormed i ∧ encode i = cmd

/-- R72: the opcode map; the decoder accepts exactly the words some row picks, with that row's command, and no word has two rows. -/
def Obligations.DecodePicksTheTableRow : Prop :=
  opcodeTable = [⟨0x00, 0x00000000, 0xFFFFFFFF⟩, ⟨0x01, 0x00000001, 0xFFFFFFFF⟩, ⟨0x02, 0x00000002, 0xFFFFFFFF⟩,
    ⟨0x03, 0x00000003, 0xFFFFC0FF⟩] ∧
  ∀ cmd : Word32,
    (∀ row ∈ opcodeTable, ∀ row' ∈ opcodeTable, row.picks cmd = true → row'.picks cmd = true → row = row') ∧
    (∀ row ∈ opcodeTable, (row.picks cmd = true ↔ cmd &&& row.mask = row.pattern) ∧
      (row.picks cmd = true ↔ ∃ i, decode cmd = .ok i ∧ i.opc = row.opc))

/-- R74: in a state where a command can be accepted, a word that no row of the opcode map matches is refused, with OPCODE
when OPC is above 3 and with RSVD otherwise, and changes nothing but the error capture. -/
def Obligations.IllegalWordsAreRefused : Prop :=
  ∀ (s : Machine.State) (cmd : Word32), s.phase ≠ .cfgFault → s.busy = false →
    (∀ row ∈ opcodeTable, cmd &&& row.mask ≠ row.pattern) →
    hostAccess (.write .bits32 0x010 cmd) s =
      raiseError (if 3 < (cmd.extractLsb' 0 8).toNat then .opcode else .rsvd) cmd s

/-! ### Acceptance and completion -/

/-- R120 with the legality table of R126: the tests of a CMD write in their order. -/
def Obligations.AcceptanceChecksInOrder : Prop :=
  ∀ (s : Machine.State) (cmd : Word32),
    hostAccess (.write .bits32 0x010 cmd) s =
      if s.phase = .cfgFault then raiseError .faulted cmd s
      else if s.busy = true then raiseError .busy cmd s
      else if 3 < (cmd.extractLsb' 0 8).toNat then raiseError .opcode cmd s
      else if cmd.extractLsb' 14 18 ≠ 0 ∨ (cmd.extractLsb' 0 8 ≠ 3 ∧ cmd.extractLsb' 8 6 ≠ 0) then
        raiseError .rsvd cmd s
      else if (cmd.extractLsb' 0 8 = 2 ∨ cmd.extractLsb' 0 8 = 3) ∧ s.phase ≠ .absorbing then raiseError .seq cmd s
      else { s with pend := some cmd }

/-- R122: NOP's word, where it is accepted and with which errors it is refused, and its completion step, from every state. -/
def Obligations.NopCompletes : Prop :=
  decode 0x00000000 = .ok .nop ∧ Issued 0 0x00000000 CommandPhase ∧
  ∀ s : Machine.State, exec .nop s = .next { s with pend := none, cmdDone := true }

/-- R123: INIT's word, where it is accepted and with which errors it is refused, and its completion step, from every state. -/
def Obligations.InitCompletes : Prop :=
  decode 0x00000001 = .ok .init ∧ Issued 1 0x00000001 CommandPhase ∧
  ∀ s : Machine.State, exec .init s =
    .next { s with h := zeroBlock, n := zeroBlock, sigma := zeroBlock, phase := .absorbing, pend := none, cmdDone := true }

/-- R124: ABSORB's word, where it is accepted and with which errors it is refused, and its completion step, from every
state; G reads the N from before. -/
def Obligations.AbsorbCompletes : Prop :=
  decode 0x00000002 = .ok .absorb ∧ Issued 2 0x00000002 (fun p => p = .absorbing) ∧
  ∀ s : Machine.State, exec .absorb s =
    .next { s with
      h := compress s.params s.h s.mbuf s.n
      n := add512 s.params.intOrder s.n (encodeCount s.params.intOrder 512)
      sigma := add512 s.params.intOrder s.sigma s.mbuf
      pend := none
      cmdDone := true }

/-- R125: FINAL's word, where it is accepted and with which errors it is refused, and its completion step, from every state
and for every remainder length. Bytes `r..63` of MBUF do not occur in it. With
`r = 0` the padding branch is skipped; otherwise every padded block is compressed with the old N, N advances once, SIGMA by
every padded block. Then N and SIGMA are compressed with counter ZERO. -/
def Obligations.FinalCompletes : Prop :=
  ∀ r : Nat, r < 64 →
    decode (BitVec.ofNat 32 (3 + r * 2 ^ 8)) = .ok (.final r) ∧
    Issued 3 (BitVec.ofNat 32 (3 + r * 2 ^ 8)) (fun p => p = .absorbing) ∧
    ∀ s : Machine.State, ∃ hr nr sr : Block,
      (r = 0 → hr = s.h ∧ nr = s.n ∧ sr = s.sigma) ∧
      (0 < r →
        hr = (padBlocks s.params.pad2Order (s.mbuf.toList.take r)).foldl (fun h b => compress s.params h b s.n) s.h ∧
        nr = add512 s.params.intOrder s.n (encodeCount s.params.intOrder (8 * r)) ∧
        sr = (padBlocks s.params.pad2Order (s.mbuf.toList.take r)).foldl (fun g b => add512 s.params.intOrder g b) s.sigma) ∧
      exec (.final r) s =
        .next { s with
          h := compress s.params (compress s.params hr nr zeroBlock) sr zeroBlock
          n := nr
          sigma := sr
          phase := .done
          pend := none
          cmdDone := true }

/-- R121: with an accepted command pending, the core's step is its completion: it answers a next state, empties PEND so that
BUSY reads 0, sets CMD_DONE and raises no error. -/
def Obligations.CompletionStepCommits : Prop :=
  ∀ (s : Machine.State) (cmd : Word32) (i : Instr),
    s.pend = some cmd → decode cmd = .ok i → legal i s.phase = true →
    ∃ t, coreStep s = .next t ∧ exec i s = .next t ∧ t.pend = none ∧ t.busy = false ∧ t.cmdDone = true ∧
      t.err = s.err ∧ t.errCode = s.errCode ∧ t.errOvf = s.errOvf ∧ t.errInfo = s.errInfo

/-- The frame of every command (R121 to R125, R25): what no completion step changes, what NOP and ABSORB leave besides,
and that every word of MBUF reads as before. -/
def Obligations.CompletionFrame : Prop :=
  ∀ (i : Instr) (s t : Machine.State), exec i s = .next t →
    t.params = s.params ∧ t.mbuf = s.mbuf ∧ t.ieDone = s.ieDone ∧ t.ieErr = s.ieErr ∧ t.err = s.err ∧
    t.errCode = s.errCode ∧ t.errOvf = s.errOvf ∧ t.errInfo = s.errInfo ∧ t.schedule = s.schedule ∧
    t.replies = s.replies ∧ (∀ w : Fin 16, readReg (.mbuf w) t = readReg (.mbuf w) s) ∧
    (i = .nop → t.h = s.h ∧ t.n = s.n ∧ t.sigma = s.sigma ∧ t.phase = s.phase) ∧
    (i = .absorb → t.phase = s.phase)

/-- R125, corner case: bytes `r..63` of MBUF do not matter to FINAL `r`. -/
def Obligations.FinalIgnoresStaleBytes : Prop :=
  ∀ (r : Nat) (s : Machine.State) (b : Block), r < 64 →
    (∀ k : Fin 64, k.val < r → b[k] = s.mbuf[k]) →
    ∃ t, exec (.final r) s = .next t ∧ exec (.final r) { s with mbuf := b } = .next { t with mbuf := b }

/-- When the pending word decodes to a command and the core moves next, a step is that command's completion step, with the
core's turn removed from the schedule (R121; the schedule is the model's own, log entry 2). -/
def Obligations.StepRunsThePendingCommand : Prop :=
  ∀ (s : Machine.State) (cmd : Word32) (i : Instr), s.pend = some cmd → decode cmd = .ok i →
    (s.schedule = [] → step s = exec i s) ∧
    ∀ ts, s.schedule = .core :: ts → step s = exec i { s with schedule := ts }

/-- When the host moves next, a step is its access in full effect, with its turn removed from the schedule; the hardware
reset likewise (R63, R190; the schedule is the model's own, log entry 2). -/
def Obligations.StepServesTheHostTurn : Prop :=
  ∀ (s : Machine.State) (ts : List Turn),
    (∀ a, s.schedule = .access a :: ts → step s = .next (hostAccess a { s with schedule := ts })) ∧
    (s.schedule = .hardReset :: ts → step s = .next (resetCore { s with schedule := ts }))

/-- A word placed by `withFetchWord` is run by the very next step (the model's own placing, log entry 10), and in a state
that satisfies the invariant outside SELFTEST and CFG_FAULT the placed state satisfies it too. -/
def Obligations.PlacedWordRunsNext : Prop :=
  ∀ (s : Machine.State) (nbits w : Nat) (i : Instr), decodeTableWord nbits w = some i →
    step (s.withFetchWord nbits w) =
      exec i { s.withFetchWord nbits w with schedule := (s.withFetchWord nbits w).schedule.tail } ∧
    (s.schedule = [] → step (s.withFetchWord nbits w) = exec i (s.withFetchWord nbits w)) ∧
    (Inv s → CommandPhase s.phase → Inv (s.withFetchWord nbits w))

/-! ### Register accesses -/

/-- R128: what every read returns. A served read changes nothing but the words returned; a refused read returns 0 and
raises BUS. -/
def Obligations.RegisterReads : Prop :=
  ∀ s : Machine.State,
    Served s 0x000 (s.ieDone.toNat + 2 * s.ieErr.toNat) ∧
    Served s 0x004 (s.busy.toNat + 2 * (phaseCode s.phase).toNat + 2 ^ 8 * (errorNumber s.errCode).toNat
      + 2 ^ 12 * s.errOvf.toNat + 2 ^ 13 * s.irq.toNat) ∧
    Served s 0x008 (s.cmdDone.toNat + 2 * s.err.toNat) ∧
    Served s 0x00C s.errInfo.toNat ∧
    Served s 0x010 0 ∧
    Served s 0x014 ((if s.params.intOrder = .le then 1 else 0)
      + 2 * (match s.params.pad2Order with | .p0ThenP1 => 0 | .p1ThenP0 => 1 | .p0Only => 2)) ∧
    (∀ w : Fin 16, Served s (0x040 + 4 * w.val) (wordNumber s.mbuf w) ∧ Served s (0x080 + 4 * w.val) (wordNumber s.h w) ∧
      Served s (0x0C0 + 4 * w.val) (wordNumber s.n w) ∧ Served s (0x100 + 4 * w.val) (wordNumber s.sigma w)) ∧
    ∀ size off, Misdirected size off →
      hostAccess (.read size off) s =
        { raiseError .bus (accessInfo false size off) s with replies := s.replies ++ [0] }

/-- R166: every misdirected access, and every write to a read-only register, raises BUS in every state, and a refused write
does nothing else. -/
def Obligations.BusErrors : Prop :=
  ∀ (s : Machine.State) (size : AccessSize) (off : Offset) (v : Word32),
    (Misdirected size off →
      hostAccess (.write size off v) s = raiseError .bus (accessInfo true size off) s ∧
      hostAccess (.read size off) s =
        { raiseError .bus (accessInfo false size off) s with replies := s.replies ++ [0] }) ∧
    (ReadOnly off → hostAccess (.write size off v) s = raiseError .bus (accessInfo true size off) s)

/-- R130: a CTRL write resets when bit 31 is 1, and otherwise writes the two enables, in every phase and whatever BUSY is;
`irq` follows at once. -/
def Obligations.CtrlWrite : Prop :=
  ∀ (s : Machine.State) (v : Word32),
    (v.getLsbD 31 = true → hostAccess (.write .bits32 0x000 v) s = resetCore s) ∧
    (v.getLsbD 31 = false →
      hostAccess (.write .bits32 0x000 v) s = { s with ieDone := v.getLsbD 0, ieErr := v.getLsbD 1 } ∧
      (hostAccess (.write .bits32 0x000 v) s).irq = ((s.cmdDone && v.getLsbD 0) || (s.err && v.getLsbD 1)))

/-- R131: an EVENT write clears what its bits 0 and 1 ask for, in every phase and whatever BUSY is. -/
def Obligations.EventWrite : Prop :=
  ∀ (s : Machine.State) (v : Word32),
    hostAccess (.write .bits32 0x008 v) s =
      { s with
        cmdDone := s.cmdDone && !v.getLsbD 0
        err := s.err && !v.getLsbD 1
        errCode := if v.getLsbD 1 then .none else s.errCode
        errOvf := s.errOvf && !v.getLsbD 1
        errInfo := if v.getLsbD 1 then 0 else s.errInfo }

/-- R132: an MBUF write is refused with WBUSY while BUSY = 1; otherwise it sets the four bytes and nothing else. -/
def Obligations.MbufWrite : Prop :=
  ∀ (s : Machine.State) (w : Fin 16) (v : Word32),
    (s.busy = true →
      hostAccess (.write .bits32 (BitVec.ofNat 12 (0x040 + 4 * w.val)) v) s =
        raiseError .wbusy (accessInfo true .bits32 (BitVec.ofNat 12 (0x040 + 4 * w.val))) s) ∧
    (s.busy = false →
      ∃ b : Block,
        hostAccess (.write .bits32 (BitVec.ofNat 12 (0x040 + 4 * w.val)) v) s = { s with mbuf := b } ∧
        (∀ k : Fin 4, b[4 * w.val + k.val] = v.extractLsb' (8 * k.val) 8) ∧
        ∀ j : Fin 64, j.val / 4 ≠ w.val → b[j] = s.mbuf[j])

/-! ### Errors, status, interrupt -/

/-- R160: the first error is captured, a later one only sets ERR_OVF; `irq` follows at once. -/
def Obligations.ErrorCapture : Prop :=
  ∀ (code : ErrorCode) (info : Word32) (s : Machine.State),
    (s.err = false → raiseError code info s = { s with errCode := code, errInfo := info, err := true }) ∧
    (s.err = true → raiseError code info s = { s with errOvf := true }) ∧
    (raiseError code info s).irq = ((s.cmdDone && s.ieDone) || s.ieErr)

/-- The error capture is sticky (R160, last sentence): a step that is neither a reset nor an EVENT write with bit 1 set
keeps EVENT.ERR, ERR_CODE and ERRINFO of an earlier error, and ERR_OVF once it is set. -/
def Obligations.ErrorCaptureIsSticky : Prop :=
  ∀ s t : Machine.State, step s = .next t → s.err = true → s.nextTurn ≠ .hardReset →
    (∀ a, s.nextTurn = .access a → ¬SoftReset a ∧ ¬ErrorClear a) →
    t.err = true ∧ t.errCode = s.errCode ∧ t.errInfo = s.errInfo ∧ (s.errOvf = true → t.errOvf = true)

/-- R170: errors are precise. After a refused access the state is the one before it, plus the error capture (and the 0 a
refused read returns); in particular a pending command stays pending. -/
def Obligations.ErrorsArePrecise : Prop :=
  ∀ (a : Access) (s t : Machine.State), hostAccess a s = t →
    (s.err = false → t.err = true →
      t = { s with err := true, errCode := t.errCode, errInfo := t.errInfo, replies := t.replies } ∧
      (t.replies = s.replies ∨ t.replies = s.replies ++ [0])) ∧
    (s.err = true → s.errOvf = false → t.errOvf = true →
      t = { s with errOvf := true, replies := t.replies } ∧
      (t.replies = s.replies ∨ t.replies = s.replies ++ [0]))

/-- R31, R38 and R162: the numeric codes of every phase and every error, the fields of the STATUS word in every state, its
reserved bits 0, the codes that never occur, what an error does to ERR_CODE and ERR_OVF, the value after reset. -/
def Obligations.StatusFields : Prop :=
  (phaseCode .selfTest = 0 ∧ phaseCode .idle = 1 ∧ phaseCode .absorbing = 2 ∧ phaseCode .done = 3 ∧
    phaseCode .cfgFault = 4) ∧
  (errorNumber .none = 0 ∧ errorNumber .cfg = 1 ∧ errorNumber .busy = 2 ∧ errorNumber .opcode = 3 ∧
    errorNumber .rsvd = 4 ∧ errorNumber .seq = 5 ∧ errorNumber .bus = 6 ∧ errorNumber .wbusy = 7 ∧
    errorNumber .faulted = 8) ∧
  (∀ (s : Machine.State) (code : ErrorCode) (info : Word32),
    (s.err = false → (statusWord (raiseError code info s)).extractLsb' 8 4 = errorNumber code) ∧
    (s.err = true →
      (statusWord (raiseError code info s)).extractLsb' 8 4 = errorNumber s.errCode ∧
      (statusWord (raiseError code info s)).getLsbD 12 = true)) ∧
  (∀ s : Machine.State,
    (statusWord s).getLsbD 0 = (s.pend.isSome || decide (s.phase = .selfTest)) ∧
    (statusWord s).extractLsb' 1 3 = phaseCode s.phase ∧ (phaseCode s.phase).toNat ≤ 4 ∧
    (statusWord s).extractLsb' 4 4 = 0 ∧
    (statusWord s).extractLsb' 8 4 = errorNumber s.errCode ∧ (errorNumber s.errCode).toNat ≤ 8 ∧
    (statusWord s).getLsbD 12 = s.errOvf ∧
    (statusWord s).getLsbD 13 = ((s.cmdDone && s.ieDone) || (s.err && s.ieErr)) ∧
    (statusWord s).getLsbD 13 = s.irq ∧
    (statusWord s).extractLsb' 14 18 = 0) ∧
  statusWord State.reset = 1

/-- R161: the three ERRINFO formats. -/
def Obligations.ErrorInfoFormats : Prop :=
  (∀ (s : Machine.State) (cmd : Word32), s.err = false →
    (hostAccess (.write .bits32 0x010 cmd) s).err = true → (hostAccess (.write .bits32 0x010 cmd) s).errInfo = cmd) ∧
  (∀ (write : Bool) (size : AccessSize) (off : Offset),
    (accessInfo write size off).toNat =
      (if write then 2 ^ 31 else 0)
        + (match size with | .bits8 => 0 | .bits16 => 1 | .bits32 => 2 | .wider => 3) * 2 ^ 12 + off.toNat ∧
    (accessInfo write size off).extractLsb' 14 17 = 0) ∧
  ∀ p : Params, (selfTestInfo p).toNat = 2 ^ 30 + (if bij8 p = true then 0 else 1) + (if bij6 p = true then 0 else 2)

/-! ### Self-test, reset, the whole machine -/

/-- R191: the self-test end, for every instance. -/
def Obligations.SelfTestEnd : Prop :=
  ∀ s : Machine.State, s.phase = .selfTest → s.pend = none →
    (bij8 s.params = true ∧ bij6 s.params = true → coreStep s = .next { s with phase := .idle }) ∧
    (¬(bij8 s.params = true ∧ bij6 s.params = true) →
      coreStep s = .next (raiseError .cfg
        (BitVec.ofNat 32 (2 ^ 30 + (if bij8 s.params = true then 0 else 1) + (if bij6 s.params = true then 0 else 2)))
        { s with phase := .cfgFault }))

/-- R190: the hardware reset and the soft reset have the same effect, the one stated here, in every state. -/
def Obligations.ResetProcedure : Prop :=
  ∀ (s : Machine.State) (v : Word32), v.getLsbD 31 = true →
    ∃ t, runTurn .hardReset s = .next t ∧ hostAccess (.write .bits32 0x000 v) s = t ∧
      t = { s with
        h := zeroBlock, n := zeroBlock, sigma := zeroBlock, mbuf := zeroBlock
        pend := none
        ieDone := false, ieErr := false
        cmdDone := false, err := false, errCode := .none, errOvf := false, errInfo := 0
        phase := .selfTest } ∧
      t.busy = true ∧ t.irq = false

/-- R44: every piece of state after a hardware reset, after a soft reset, and in the state right after reset. -/
def Obligations.ResetValues : Prop :=
  (∀ t : Machine.State,
    (t = State.reset ∨ (∃ s, runTurn .hardReset s = .next t) ∨
      ∃ s v, v.getLsbD 31 = true ∧ hostAccess (.write .bits32 0x000 v) s = t) →
    t.h = zeroBlock ∧ t.n = zeroBlock ∧ t.sigma = zeroBlock ∧ t.mbuf = zeroBlock ∧ t.phase = .selfTest ∧ t.pend = none ∧
    t.busy = true ∧ t.ieDone = false ∧ t.ieErr = false ∧ t.cmdDone = false ∧ t.err = false ∧ t.errCode = .none ∧
    t.errOvf = false ∧ t.errInfo = 0 ∧ t.irq = false) ∧
  ∀ s t : Machine.State, ((runTurn .hardReset s = .next t) ∨
      ∃ v, v.getLsbD 31 = true ∧ hostAccess (.write .bits32 0x000 v) s = t) →
    t.params = s.params ∧ readReg .config t = readReg .config s

/-- The invariant holds right after reset, for every instance. -/
def Obligations.InvariantAtReset : Prop := Inv State.reset ∧ ∀ p : Params, Inv (State.resetOf p)

/-- Every step keeps the invariant, whatever the outside world does. -/
def Obligations.StepKeepsInvariant : Prop :=
  ∀ s t : Machine.State, Inv s → step s = .next t → Inv t

/-- An error never stops the core (R170, R171), and no command word that was accepted lacks a meaning: in every state that
satisfies the invariant a step answers a next state. -/
def Obligations.StepNeverStops : Prop :=
  ∀ s : Machine.State, Inv s → ∃ t, step s = .next t

/-- R127: the phase machine has exactly these transitions. -/
def Obligations.PhaseMachine : Prop :=
  ∀ s t : Machine.State, Inv s → step s = .next t →
    (s.nextTurn = .hardReset → t.phase = .selfTest) ∧
    (∀ a, s.nextTurn = .access a → SoftReset a → t.phase = .selfTest) ∧
    (∀ a, s.nextTurn = .access a → ¬SoftReset a → t.phase = s.phase) ∧
    (s.nextTurn = .core →
      (s.phase = .selfTest →
        t.phase = if bij8 s.params = true ∧ bij6 s.params = true then .idle else .cfgFault) ∧
      (s.pend = some (encode .init) → CommandPhase s.phase ∧ t.phase = .absorbing) ∧
      (s.pend = some (encode .absorb) → s.phase = .absorbing ∧ t.phase = .absorbing) ∧
      (∀ r, r < 64 → s.pend = some (encode (.final r)) → s.phase = .absorbing ∧ t.phase = .done) ∧
      (s.pend = some (encode .nop) → CommandPhase s.phase ∧ t.phase = s.phase) ∧
      (s.pend = none → s.phase ≠ .selfTest → t.phase = s.phase))

/-- R36, atomic commit: a step that changes H, N or SIGMA is the completion step of a pending command, which ends it in the
same step, or a reset, which clears all three. -/
def Obligations.HashStateChangesOnlyAtCommit : Prop :=
  ∀ s t : Machine.State, step s = .next t → s.chain ≠ t.chain →
    (s.nextTurn = .core ∧ ∃ cmd i, s.pend = some cmd ∧ decode cmd = .ok i ∧ i ≠ .nop ∧ t.pend = none ∧ t.cmdDone = true) ∨
    ((s.nextTurn = .hardReset ∨ ∃ a, s.nextTurn = .access a ∧ SoftReset a) ∧
      t.h = zeroBlock ∧ t.n = zeroBlock ∧ t.sigma = zeroBlock)

/-- R163: an instance with a faulty table never computes a digest, whatever the host does and however often it resets: no
command ever becomes pending or completes, and H, N and SIGMA stay ZERO. -/
def Obligations.FaultedInstanceNeverHashes : Prop :=
  ∀ (p : Params) (turns : List Turn) (k : Nat) (t : Machine.State),
    ¬(bij8 p = true ∧ bij6 p = true) →
    Host.Core.run core k { State.resetOf p with schedule := turns } = .next t →
    (t.phase = .selfTest ∨ t.phase = .cfgFault) ∧ t.pend = none ∧ t.cmdDone = false ∧
      t.h = zeroBlock ∧ t.n = zeroBlock ∧ t.sigma = zeroBlock

/-- What a pending command computes is fixed at its acceptance (R41, R66, R199), and it completes at the core's first turn
(R200): whatever accesses the host makes meanwhile, short of a soft reset, the completion leaves the H, N, SIGMA, PHASE and
MBUF that completing at once would have left. The clauses on the schedule rest on the model's own choice of log entry 2, and
the states with a command pending in SELFTEST or CFG_FAULT, which no rule produces, on log entry 9. -/
def Obligations.PendingResultIsFixed : Prop :=
  ∀ (s : Machine.State) (cmd : Word32) (i : Instr) (accesses : List Access) (rest : List Turn),
    s.pend = some cmd → decode cmd = .ok i →
    s.schedule = accesses.map Turn.access ++ rest → (rest = [] ∨ ∃ ts, rest = .core :: ts) →
    (∀ a ∈ accesses, ¬SoftReset a) →
    ∃ t u, Host.Core.run core (accesses.length + 1) s = .next t ∧ exec i s = .next u ∧
      t.h = u.h ∧ t.n = u.n ∧ t.sigma = u.sigma ∧ t.phase = u.phase ∧ t.mbuf = u.mbuf ∧
      t.pend = none ∧ t.cmdDone = true ∧ t.schedule = rest.tail

/-- The ROM tables and the order parameters are never written (R8, R27 to R30, R37). -/
def Obligations.ParametersNeverChange : Prop :=
  ∀ s t : Machine.State, step s = .next t → t.params = s.params

/-- The host cannot read the ROM tables (R27 to R30): an access in an instance with other tables, but the same order
parameters, does and returns the same. -/
def Obligations.TablesAreInvisibleToAccesses : Prop :=
  ∀ (a : Access) (s : Machine.State) (p : Params),
    p.intOrder = s.params.intOrder → p.pad2Order = s.params.pad2Order →
    hostAccess a { s with params := p } = { hostAccess a s with params := p }

/-- R50: the window in the host address space, `WINDOW_BASE + off` for offset `off`, and no other address. -/
def Obligations.WindowPlacement : Prop :=
  (∀ off : Offset, offsetAt (Config.windowBase + off.toNat) = some off) ∧
  (∀ (address : Nat) (off : Offset), offsetAt address = some off → address = Config.windowBase + off.toNat) ∧
  Config.windowBase % 4096 = 0

/-! ### Datapath -/

/-- R81: the word view as a sum and byte by byte, and the two views undo each other. -/
def Obligations.WordView : Prop :=
  (∀ (b : Block) (w : Fin 8), (wordView b w).toNat = ∑ k : Fin 8, b[8 * w.val + k.val].toNat * 2 ^ (8 * k.val)) ∧
  (∀ (v : Vector Word64 8) (w k : Fin 8), (unword v)[8 * w.val + k.val] = v[w].extractLsb' (8 * k.val) 8) ∧
  (∀ (v : Vector Word64 8) (w : Fin 8), wordView (unword v) w = v[w]) ∧
  ∀ b : Block, unword (Vector.ofFn fun w => wordView b w) = b

/-- R82: the integer view as a sum in both orders, and BLK as its inverse below 2^512. -/
def Obligations.IntegerView : Prop :=
  (∀ b : Block, intView .be b = ∑ i : Fin 64, b[i].toNat * 2 ^ (8 * (63 - i.val))) ∧
  (∀ b : Block, intView .le b = ∑ i : Fin 64, b[i].toNat * 2 ^ (8 * i.val)) ∧
  (∀ (o : IntOrder) (v : Nat), v < 2 ^ 512 → intView o (blkView o v) = v) ∧
  ∀ (o : IntOrder) (b : Block), blkView o (intView o b) = b

/-- R83: X byte by byte, and its laws. -/
def Obligations.XorLayer : Prop :=
  (∀ (a b : Block) (i : Fin 64), (layerX a b)[i] = a[i] ^^^ b[i]) ∧
  (∀ a : Block, layerX a a = zeroBlock ∧ layerX a zeroBlock = a) ∧
  ∀ a b c : Block, layerX a b = layerX b a ∧ layerX (layerX a b) c = layerX a (layerX b c) ∧ layerX (layerX a b) b = a

/-- R84: S byte by byte, S of ZERO, S is a bijection on blocks exactly when SBOX is one on bytes, and S is not linear for a
general SBOX. -/
def Obligations.SubstitutionLayer : Prop :=
  (∀ p : Params,
    (∀ (b : Block) (i : Fin 64), (layerS p b)[i] = p.sbox[b[i].toFin]) ∧
    (∀ i : Fin 64, (layerS p zeroBlock)[i] = p.sbox[0]) ∧
    (Function.Bijective (layerS p) ↔ Function.Bijective fun x : Byte => p.sbox[x.toFin])) ∧
  ∃ (p : Params) (a b : Block), layerS p (layerX a b) ≠ layerX (layerS p a) (layerS p b)

/-- R85: P is the gather `out[i] = B[PERM[i]]`, and it loses no byte when PERM is a bijection. -/
def Obligations.PermutationLayer : Prop :=
  ∀ p : Params,
    (∀ (b : Block) (i : Fin 64), (layerP p b)[i] = b[p.perm[i]]) ∧
    (bij6 p = true → Function.Bijective (layerP p) ∧ ∀ b : Block, (layerP p b).toList.Perm b.toList)

/-- R86 and R87: Lw is the GF(2)-linear map that takes bit `j` to `A[j]`; L is Lw on each word, hence linear too. -/
def Obligations.LinearLayer : Prop :=
  ∀ p : Params,
    linearWord p 0 = 0 ∧
    (∀ j : Fin 64, linearWord p (BitVec.ofNat 64 (2 ^ j.val)) = p.basis[j]) ∧
    (∀ u v : Word64, linearWord p (u ^^^ v) = linearWord p u ^^^ linearWord p v) ∧
    (∀ (b : Block) (w : Fin 8), wordView (layerL p b) w = linearWord p (wordView b w)) ∧
    layerL p zeroBlock = zeroBlock ∧
    ∀ a b : Block, layerL p (layerX a b) = layerX (layerL p a) (layerL p b)

/-- R89, R90 and R91: the 13 round keys of any seed, the 13 rounds of E under any 13 keys, and G with its two final
exclusive ors. -/
def Obligations.CompressionRounds : Prop :=
  ∀ p : Params,
    (∀ seed : Block, ∃ key : Nat → Block,
      key 0 = seed ∧
      (∀ i : Fin 12, key (i.val + 1) = layerL p (layerP p (layerS p (layerX (key i.val) p.roundConst[i])))) ∧
      keySchedule p seed = (List.range 13).map key) ∧
    (∀ (key : Nat → Block) (m : Block), ∃ data : Nat → Block,
      data 0 = m ∧ (∀ i < 13, data (i + 1) = layerL p (layerP p (layerS p (layerX (data i) (key i))))) ∧
      transformE p ((List.range 13).map key) m = data 13) ∧
    ∀ h m n : Block,
      compress p h m n =
        layerX (layerX (transformE p (keySchedule p (layerL p (layerP p (layerS p (layerX h n))))) m) h) m

/-- R97 item 4: ADD512 agrees with addition modulo 2^512 in the integer view and is commutative and associative, with
identity ZERO. -/
def Obligations.Add512Arithmetic : Prop :=
  ∀ (o : IntOrder) (a b c : Block),
    intView o (add512 o a b) = (intView o a + intView o b) % 2 ^ 512 ∧
    add512 o a b = add512 o b a ∧
    add512 o (add512 o a b) c = add512 o a (add512 o b c) ∧
    add512 o a zeroBlock = a

/-- R92: ADD512 is addition modulo 2^512 in the integer view, and it is the byte carry chain, from byte 63 down for BE and
from byte 0 up for LE, with the carry out discarded. -/
def Obligations.Add512IsCarryChain : Prop :=
  ∀ a b : Block,
    (∀ o, intView o (add512 o a b) = (intView o a + intView o b) % 2 ^ 512) ∧
    (add512 .be a b).toList.reverse = addBytes 0 a.toList.reverse b.toList.reverse ∧
    (add512 .le a b).toList = addBytes 0 a.toList b.toList

/-- R93: ENCODE of a value below 2^16 has at most its two low bytes non-zero, where the order places them; ENCODE(512) is
the block R93 shows. -/
def Obligations.CounterEncoding : Prop :=
  (∀ (v : Nat) (i : Fin 64), v < 2 ^ 16 →
    ((encodeCount .be v)[i].toNat = if i.val = 63 then v % 256 else if i.val = 62 then v / 256 else 0) ∧
    ((encodeCount .le v)[i].toNat = if i.val = 0 then v % 256 else if i.val = 1 then v / 256 else 0)) ∧
  (∀ o, encodeCount o 0 = zeroBlock) ∧
  ∀ (o : IntOrder) (v : Nat), intView o (encodeCount o v) = v % 2 ^ 512

/-- R94: the padded remainder, byte by byte, for every remainder of 1 to 63 bytes. -/
def Obligations.PaddingLayout : Prop :=
  ∀ rem : List Byte, 1 ≤ rem.length → rem.length ≤ 63 →
    (pad rem).length = (if rem.length ≤ 55 then 64 else 128) ∧
    ∀ k, k < (pad rem).length →
      (pad rem).getD k 0 =
        if k < rem.length then rem.getD k 0
        else if k = rem.length then 0x80
        else if k < (pad rem).length - 8 then 0
        else BitVec.ofNat 8 (8 * rem.length / 2 ^ (8 * (k - ((pad rem).length - 8))))

/-- R95: the padded blocks and their order. -/
def Obligations.PaddedBlocks : Prop :=
  ∀ (o : Pad2Order) (rem : List Byte), 1 ≤ rem.length → rem.length ≤ 63 →
    ∃ p0 p1 : Block,
      p0.toList = (pad rem).take 64 ∧ (55 < rem.length → p1.toList = (pad rem).drop 64) ∧
      padBlocks o rem =
        if rem.length ≤ 55 then [p0]
        else match o with
          | .p0ThenP1 => [p0, p1]
          | .p1ThenP0 => [p1, p0]
          | .p0Only => [p0]

/-- R96: the table checks hold exactly when each value stands in the table exactly once. -/
def Obligations.TableChecks : Prop :=
  ∀ p : Params,
    (bij8 p = true ↔ ∀ v : Byte, ∃! i : Fin 256, p.sbox[i] = v) ∧
    (bij6 p = true ↔ ∀ v : Fin 64, ∃! i : Fin 64, p.perm[i] = v)

/-- R97 item 5: under TOY-0, LPSX is X, every round key is the seed, E is one exclusive or, G returns its counter, and every
digest is ZERO, in both byte orders and under every padding order. -/
def Obligations.IdentityTablesDegenerate : Prop :=
  ∀ p : Params, Toy0 p →
    (∀ a k : Block, lpsx p a k = layerX a k) ∧
    (∀ seed : Block, keySchedule p seed = List.replicate 13 seed) ∧
    (∀ seed m : Block, transformE p (keySchedule p seed) m = layerX m seed) ∧
    (∀ h m n : Block, compress p h m n = n) ∧
    ∀ msg : List Byte, digest p msg = zeroBlock

/-! ### Digest and host protocol -/

/-- R151: the full blocks are taken from the tail of the message toward the front, bytes in message order, and the
remainder is the message's first bytes, compressed after all full blocks. -/
def Obligations.TailFirstBlocks : Prop :=
  ∀ msg : List Byte,
    (fullBlocks msg).length = msg.length / 64 ∧
    (∀ k j, k < msg.length / 64 → j < 64 →
      ((fullBlocks msg).getD k zeroBlock).toList.getD j 0 = msg.getD (msg.length - 64 * (k + 1) + j) 0) ∧
    messageRemainder msg = msg.take (msg.length % 64) ∧
    ∀ p : Params, digest p msg =
      (finishChain p ((fullBlocks msg).foldl (absorbBlock p) chainStart) (messageRemainder msg)).h

/-- R155: the digest of the empty message. -/
def Obligations.EmptyDigest : Prop :=
  ∀ p : Params, digest p [] = compress p (compress p zeroBlock zeroBlock zeroBlock) zeroBlock zeroBlock

/-- R157: the final N is the message's bit length modulo 2^512, whatever PAD2_ORDER is; the final SIGMA depends on
PAD2_ORDER only with a remainder of 56 bytes or more, and then only between P0_ONLY and the other two. -/
def Obligations.FinalCounter : Prop :=
  ∀ (p : Params) (msg : List Byte),
    (digestChain p msg).n = encodeCount p.intOrder ((8 * msg.length) % 2 ^ 512) ∧
    ∀ o : Pad2Order, (msg.length % 64 < 56 ∨ (p.pad2Order ≠ .p0Only ∧ o ≠ .p0Only)) →
      (digestChain { p with pad2Order := o } msg).sigma = (digestChain p msg).sigma

/-- R154: the host protocol computes the digest. From every state that satisfies the invariant in IDLE, ABSORBING or DONE,
for every message and however often the host polls before the core moves, the protocol's turns run to phase DONE with H the
digest, N and SIGMA those of R150, and the 16 words last read putting the digest together. (The schedule is the model's, log entry 2,
and so are the turns of WAIT, log entry 19.) -/
def Obligations.ProtocolComputesDigest : Prop :=
  ∀ (s : Machine.State) (msg : List Byte) (polls : Nat → Nat) (rest : List Turn),
    Inv s → CommandPhase s.phase → s.schedule = hashTurns msg polls ++ rest →
    ∃ t, Host.Core.run core (hashTurns msg polls).length s = .next t ∧
      t.phase = .done ∧ t.pend = none ∧ t.h = digest s.params msg ∧
      t.n = (digestChain s.params msg).n ∧ t.sigma = (digestChain s.params msg).sigma ∧
      blockOfWords (t.replies.drop (t.replies.length - 16)) = digest s.params msg ∧ t.schedule = rest

/-- R152 and R154: the host protocol with the interrupt computes the digest. As ProtocolComputesDigest, with "wait irq" in
place of every WAIT but the first, CLREV before each command, and IE_ERR as the host likes; at the end `irq` is up, STATUS
reads 0x00002006 and EVENT 0x00000001 (the end state of program P3). Each "wait irq" is a real one: `irq` is 0 when the host
begins to wait, and the core's turn raises it. (The schedule is the model's, log entry 2, and so are the turns of the first
WAIT and of "wait irq", log entries 19 and 23.) -/
def Obligations.InterruptProtocolComputesDigest : Prop :=
  ∀ (s : Machine.State) (msg : List Byte) (polls : Nat) (ieErr : Bool) (rest : List Turn),
    Inv s → CommandPhase s.phase → s.schedule = hashIrqTurns msg polls ieErr ++ rest →
    (∃ t, Host.Core.run core (hashIrqTurns msg polls ieErr).length s = .next t ∧
      t.phase = .done ∧ t.pend = none ∧ t.h = digest s.params msg ∧
      t.n = (digestChain s.params msg).n ∧ t.sigma = (digestChain s.params msg).sigma ∧
      blockOfWords (t.replies.drop (t.replies.length - 16)) = digest s.params msg ∧ t.schedule = rest ∧
      t.irq = true ∧ statusWord t = 0x00002006 ∧ eventWord t = 0x00000001) ∧
    ∀ k, (irqPrelude polls ieErr).length ≤ k → (hashIrqTurns msg polls ieErr)[k]? = some .core →
      ∃ u v : Machine.State, Host.Core.run core k s = .next u ∧ u.irq = false ∧ step u = .next v ∧ v.irq = true
end

