-- ==== Sys2Proof/Laws/Datapath.lean ====
section
/-! SUPPORT. The small lemmas of the datapath functions, one byte or one element at a time. -/

namespace Sys2Proof.Machine

@[simp] theorem zeroBlock_getElem (i : Nat) (h : i < 64) : zeroBlock[i] = 0 := by simp [zeroBlock]

@[simp] theorem layerX_getElem (a b : Block) (i : Nat) (h : i < 64) : (layerX a b)[i] = a[i] ^^^ b[i] := by
  simp [layerX]

@[simp] theorem layerS_getElem (p : Params) (b : Block) (i : Nat) (h : i < 64) :
    (layerS p b)[i] = p.sbox[b[i].toFin] := by
  simp [layerS]

@[simp] theorem layerP_getElem (p : Params) (b : Block) (i : Nat) (h : i < 64) :
    (layerP p b)[i] = b[p.perm[i]] := by
  simp [layerP]

@[simp] theorem unword_getElem (v : Vector Word64 8) (i : Nat) (h : i < 64) :
    (unword v)[i] = laneByte v[i / 8] (i % 8) := by
  simp [unword]

@[simp] theorem blkView_getElem (o : IntOrder) (v i : Nat) (h : i < 64) :
    (blkView o v)[i] = BitVec.ofNat 8 (v / 256 ^ byteRank o i) := by
  simp [blkView]

@[simp] theorem blockOfBytes_getElem (bs : List Byte) (i : Nat) (h : i < 64) : (blockOfBytes bs)[i] = bs.getD i 0 := by
  simp [blockOfBytes]

@[simp] theorem setBlockWord_getElem (b : Block) (w : Fin 16) (v : Word32) (i : Nat) (h : i < 64) :
    (setBlockWord b w v)[i] = if i / 4 = w.val then laneByte v (i % 4) else b[i] := by
  simp [setBlockWord]

@[simp] theorem leNat_nil : leNat [] = 0 := rfl

@[simp] theorem leNat_cons (b : Byte) (bs : List Byte) : leNat (b :: bs) = b.toNat + 256 * leNat bs := rfl

/-- The number a byte list stands for fits its length. -/
theorem leNat_lt (bs : List Byte) : leNat bs < 256 ^ bs.length := by
  induction bs with
  | nil => simp
  | cons b bs ih =>
    have := b.isLt
    simp only [leNat_cons, List.length_cons, pow_succ]
    omega

theorem leNat_append (xs ys : List Byte) : leNat (xs ++ ys) = leNat xs + 256 ^ xs.length * leNat ys := by
  induction xs with
  | nil => simp
  | cons x xs ih => simp only [List.cons_append, leNat_cons, ih, List.length_cons, pow_succ]; ring

/-- The integer view of a block is below 2^512 (R82). -/
theorem intView_lt (o : IntOrder) (b : Block) : intView o b < 2 ^ 512 := by
  have e : (256 : Nat) ^ 64 = 2 ^ 512 := by rw [show 256 = 2 ^ 8 from rfl, ← pow_mul]
  rw [← e]
  cases o
  · simpa only [intView, List.length_reverse, Vector.length_toList] using leNat_lt b.toList.reverse
  · simpa only [intView, Vector.length_toList] using leNat_lt b.toList

@[simp] theorem remainder_length (b : Block) (r : Nat) : (remainder b r).length = min r 64 := by simp [remainder]

@[simp] theorem le64_length (v : Nat) : (le64 v).length = 8 := by simp [le64]

@[simp] theorem keysFrom_nil (p : Params) (k : Block) : keysFrom p k [] = [k] := rfl

@[simp] theorem keysFrom_cons (p : Params) (k c : Block) (cs : List Block) :
    keysFrom p k (c :: cs) = k :: keysFrom p (lpsx p k c) cs := rfl

@[simp] theorem keysFrom_length (p : Params) (k : Block) (cs : List Block) : (keysFrom p k cs).length = cs.length + 1 := by
  induction cs generalizing k with
  | nil => rfl
  | cons c cs ih => simp [ih]

@[simp] theorem transformE_nil (p : Params) (m : Block) : transformE p [] m = m := by rw [transformE, List.foldl_nil]

@[simp] theorem transformE_cons (p : Params) (k m : Block) (ks : List Block) :
    transformE p (k :: ks) m = transformE p ks (lpsx p m k) := by
  rw [transformE, transformE, List.foldl_cons]

end Sys2Proof.Machine
end

