-- ==== Sys2Proof/Laws/Decode.lean ====
section
/-! SUPPORT. What the decoder reads and what the encoder writes, field by field. -/

namespace Sys2Proof

/-- The word of a command as a number: OPC plus 256 times REMLEN (R70). -/
theorem encode_toNat (i : Instr) : (encode i).toNat = i.opc.toNat + 256 * i.remlen.toNat := by
  have h1 := i.opc.isLt
  have h2 := i.remlen.isLt
  rw [encode, BitVec.toNat_append, ← Nat.shiftLeft_add_eq_or_of_lt h1, BitVec.toNat_append,
    ← Nat.shiftLeft_add_eq_or_of_lt h2, Nat.shiftLeft_eq, Nat.shiftLeft_eq]
  simp
  omega

theorem opcField_encode (i : Instr) : opcField (encode i) = i.opc := by
  apply BitVec.eq_of_toNat_eq
  have h1 := i.opc.isLt
  simp only [opcField, BitVec.extractLsb'_toNat, encode_toNat, Nat.shiftRight_zero]
  omega

theorem remlenField_encode (i : Instr) : remlenField (encode i) = i.remlen := by
  apply BitVec.eq_of_toNat_eq
  have h1 := i.opc.isLt
  have h2 := i.remlen.isLt
  simp only [remlenField, BitVec.extractLsb'_toNat, encode_toNat, Nat.shiftRight_eq_div_pow]
  omega

theorem rsvdField_encode (i : Instr) : rsvdField (encode i) = 0 := by
  apply BitVec.eq_of_toNat_eq
  have h1 := i.opc.isLt
  have h2 := i.remlen.isLt
  simp only [rsvdField, BitVec.extractLsb'_toNat, encode_toNat, Nat.shiftRight_eq_div_pow]
  simp
  omega

end Sys2Proof
end

