-- ==== Sys2Proof/Laws/State.lean ====
section
/-! SUPPORT. One lemma per field per state update, each true by unfolding the update once. -/

namespace Sys2Proof.Machine

/-! ### commit -/

@[simp] theorem commit_params (c : Chain) (p : Phase) (s : State) :
    (commit c p s).params = s.params := rfl
@[simp] theorem commit_h (c : Chain) (p : Phase) (s : State) :
    (commit c p s).h = c.h := rfl
@[simp] theorem commit_n (c : Chain) (p : Phase) (s : State) :
    (commit c p s).n = c.n := rfl
@[simp] theorem commit_sigma (c : Chain) (p : Phase) (s : State) :
    (commit c p s).sigma = c.sigma := rfl
@[simp] theorem commit_mbuf (c : Chain) (p : Phase) (s : State) :
    (commit c p s).mbuf = s.mbuf := rfl
@[simp] theorem commit_phase (c : Chain) (p : Phase) (s : State) :
    (commit c p s).phase = p := rfl
@[simp] theorem commit_pend (c : Chain) (p : Phase) (s : State) :
    (commit c p s).pend = none := rfl
@[simp] theorem commit_ieDone (c : Chain) (p : Phase) (s : State) :
    (commit c p s).ieDone = s.ieDone := rfl
@[simp] theorem commit_ieErr (c : Chain) (p : Phase) (s : State) :
    (commit c p s).ieErr = s.ieErr := rfl
@[simp] theorem commit_cmdDone (c : Chain) (p : Phase) (s : State) :
    (commit c p s).cmdDone = true := rfl
@[simp] theorem commit_err (c : Chain) (p : Phase) (s : State) :
    (commit c p s).err = s.err := rfl
@[simp] theorem commit_errCode (c : Chain) (p : Phase) (s : State) :
    (commit c p s).errCode = s.errCode := rfl
@[simp] theorem commit_errOvf (c : Chain) (p : Phase) (s : State) :
    (commit c p s).errOvf = s.errOvf := rfl
@[simp] theorem commit_errInfo (c : Chain) (p : Phase) (s : State) :
    (commit c p s).errInfo = s.errInfo := rfl
@[simp] theorem commit_schedule (c : Chain) (p : Phase) (s : State) :
    (commit c p s).schedule = s.schedule := rfl
@[simp] theorem commit_replies (c : Chain) (p : Phase) (s : State) :
    (commit c p s).replies = s.replies := rfl

/-! ### clearError -/

@[simp] theorem clearError_params (s : State) :
    (clearError s).params = s.params := rfl
@[simp] theorem clearError_h (s : State) :
    (clearError s).h = s.h := rfl
@[simp] theorem clearError_n (s : State) :
    (clearError s).n = s.n := rfl
@[simp] theorem clearError_sigma (s : State) :
    (clearError s).sigma = s.sigma := rfl
@[simp] theorem clearError_mbuf (s : State) :
    (clearError s).mbuf = s.mbuf := rfl
@[simp] theorem clearError_phase (s : State) :
    (clearError s).phase = s.phase := rfl
@[simp] theorem clearError_pend (s : State) :
    (clearError s).pend = s.pend := rfl
@[simp] theorem clearError_ieDone (s : State) :
    (clearError s).ieDone = s.ieDone := rfl
@[simp] theorem clearError_ieErr (s : State) :
    (clearError s).ieErr = s.ieErr := rfl
@[simp] theorem clearError_cmdDone (s : State) :
    (clearError s).cmdDone = s.cmdDone := rfl
@[simp] theorem clearError_err (s : State) :
    (clearError s).err = false := rfl
@[simp] theorem clearError_errCode (s : State) :
    (clearError s).errCode = .none := rfl
@[simp] theorem clearError_errOvf (s : State) :
    (clearError s).errOvf = false := rfl
@[simp] theorem clearError_errInfo (s : State) :
    (clearError s).errInfo = 0 := rfl
@[simp] theorem clearError_schedule (s : State) :
    (clearError s).schedule = s.schedule := rfl
@[simp] theorem clearError_replies (s : State) :
    (clearError s).replies = s.replies := rfl

/-! ### clearDone -/

@[simp] theorem clearDone_params (s : State) :
    (clearDone s).params = s.params := rfl
@[simp] theorem clearDone_h (s : State) :
    (clearDone s).h = s.h := rfl
@[simp] theorem clearDone_n (s : State) :
    (clearDone s).n = s.n := rfl
@[simp] theorem clearDone_sigma (s : State) :
    (clearDone s).sigma = s.sigma := rfl
@[simp] theorem clearDone_mbuf (s : State) :
    (clearDone s).mbuf = s.mbuf := rfl
@[simp] theorem clearDone_phase (s : State) :
    (clearDone s).phase = s.phase := rfl
@[simp] theorem clearDone_pend (s : State) :
    (clearDone s).pend = s.pend := rfl
@[simp] theorem clearDone_ieDone (s : State) :
    (clearDone s).ieDone = s.ieDone := rfl
@[simp] theorem clearDone_ieErr (s : State) :
    (clearDone s).ieErr = s.ieErr := rfl
@[simp] theorem clearDone_cmdDone (s : State) :
    (clearDone s).cmdDone = false := rfl
@[simp] theorem clearDone_err (s : State) :
    (clearDone s).err = s.err := rfl
@[simp] theorem clearDone_errCode (s : State) :
    (clearDone s).errCode = s.errCode := rfl
@[simp] theorem clearDone_errOvf (s : State) :
    (clearDone s).errOvf = s.errOvf := rfl
@[simp] theorem clearDone_errInfo (s : State) :
    (clearDone s).errInfo = s.errInfo := rfl
@[simp] theorem clearDone_schedule (s : State) :
    (clearDone s).schedule = s.schedule := rfl
@[simp] theorem clearDone_replies (s : State) :
    (clearDone s).replies = s.replies := rfl

/-! ### resetCore -/

@[simp] theorem resetCore_params (s : State) :
    (resetCore s).params = s.params := rfl
@[simp] theorem resetCore_h (s : State) :
    (resetCore s).h = zeroBlock := rfl
@[simp] theorem resetCore_n (s : State) :
    (resetCore s).n = zeroBlock := rfl
@[simp] theorem resetCore_sigma (s : State) :
    (resetCore s).sigma = zeroBlock := rfl
@[simp] theorem resetCore_mbuf (s : State) :
    (resetCore s).mbuf = zeroBlock := rfl
@[simp] theorem resetCore_phase (s : State) :
    (resetCore s).phase = .selfTest := rfl
@[simp] theorem resetCore_pend (s : State) :
    (resetCore s).pend = none := rfl
@[simp] theorem resetCore_ieDone (s : State) :
    (resetCore s).ieDone = false := rfl
@[simp] theorem resetCore_ieErr (s : State) :
    (resetCore s).ieErr = false := rfl
@[simp] theorem resetCore_cmdDone (s : State) :
    (resetCore s).cmdDone = false := rfl
@[simp] theorem resetCore_err (s : State) :
    (resetCore s).err = false := rfl
@[simp] theorem resetCore_errCode (s : State) :
    (resetCore s).errCode = .none := rfl
@[simp] theorem resetCore_errOvf (s : State) :
    (resetCore s).errOvf = false := rfl
@[simp] theorem resetCore_errInfo (s : State) :
    (resetCore s).errInfo = 0 := rfl
@[simp] theorem resetCore_schedule (s : State) :
    (resetCore s).schedule = s.schedule := rfl
@[simp] theorem resetCore_replies (s : State) :
    (resetCore s).replies = s.replies := rfl

/-! ### setEnables -/

@[simp] theorem setEnables_params (d e : Bool) (s : State) :
    (setEnables d e s).params = s.params := rfl
@[simp] theorem setEnables_h (d e : Bool) (s : State) :
    (setEnables d e s).h = s.h := rfl
@[simp] theorem setEnables_n (d e : Bool) (s : State) :
    (setEnables d e s).n = s.n := rfl
@[simp] theorem setEnables_sigma (d e : Bool) (s : State) :
    (setEnables d e s).sigma = s.sigma := rfl
@[simp] theorem setEnables_mbuf (d e : Bool) (s : State) :
    (setEnables d e s).mbuf = s.mbuf := rfl
@[simp] theorem setEnables_phase (d e : Bool) (s : State) :
    (setEnables d e s).phase = s.phase := rfl
@[simp] theorem setEnables_pend (d e : Bool) (s : State) :
    (setEnables d e s).pend = s.pend := rfl
@[simp] theorem setEnables_ieDone (d e : Bool) (s : State) :
    (setEnables d e s).ieDone = d := rfl
@[simp] theorem setEnables_ieErr (d e : Bool) (s : State) :
    (setEnables d e s).ieErr = e := rfl
@[simp] theorem setEnables_cmdDone (d e : Bool) (s : State) :
    (setEnables d e s).cmdDone = s.cmdDone := rfl
@[simp] theorem setEnables_err (d e : Bool) (s : State) :
    (setEnables d e s).err = s.err := rfl
@[simp] theorem setEnables_errCode (d e : Bool) (s : State) :
    (setEnables d e s).errCode = s.errCode := rfl
@[simp] theorem setEnables_errOvf (d e : Bool) (s : State) :
    (setEnables d e s).errOvf = s.errOvf := rfl
@[simp] theorem setEnables_errInfo (d e : Bool) (s : State) :
    (setEnables d e s).errInfo = s.errInfo := rfl
@[simp] theorem setEnables_schedule (d e : Bool) (s : State) :
    (setEnables d e s).schedule = s.schedule := rfl
@[simp] theorem setEnables_replies (d e : Bool) (s : State) :
    (setEnables d e s).replies = s.replies := rfl

/-! ### setMbufWord -/

@[simp] theorem setMbufWord_params (w : Fin 16) (v : Word32) (s : State) :
    (setMbufWord w v s).params = s.params := rfl
@[simp] theorem setMbufWord_h (w : Fin 16) (v : Word32) (s : State) :
    (setMbufWord w v s).h = s.h := rfl
@[simp] theorem setMbufWord_n (w : Fin 16) (v : Word32) (s : State) :
    (setMbufWord w v s).n = s.n := rfl
@[simp] theorem setMbufWord_sigma (w : Fin 16) (v : Word32) (s : State) :
    (setMbufWord w v s).sigma = s.sigma := rfl
@[simp] theorem setMbufWord_mbuf (w : Fin 16) (v : Word32) (s : State) :
    (setMbufWord w v s).mbuf = setBlockWord s.mbuf w v := rfl
@[simp] theorem setMbufWord_phase (w : Fin 16) (v : Word32) (s : State) :
    (setMbufWord w v s).phase = s.phase := rfl
@[simp] theorem setMbufWord_pend (w : Fin 16) (v : Word32) (s : State) :
    (setMbufWord w v s).pend = s.pend := rfl
@[simp] theorem setMbufWord_ieDone (w : Fin 16) (v : Word32) (s : State) :
    (setMbufWord w v s).ieDone = s.ieDone := rfl
@[simp] theorem setMbufWord_ieErr (w : Fin 16) (v : Word32) (s : State) :
    (setMbufWord w v s).ieErr = s.ieErr := rfl
@[simp] theorem setMbufWord_cmdDone (w : Fin 16) (v : Word32) (s : State) :
    (setMbufWord w v s).cmdDone = s.cmdDone := rfl
@[simp] theorem setMbufWord_err (w : Fin 16) (v : Word32) (s : State) :
    (setMbufWord w v s).err = s.err := rfl
@[simp] theorem setMbufWord_errCode (w : Fin 16) (v : Word32) (s : State) :
    (setMbufWord w v s).errCode = s.errCode := rfl
@[simp] theorem setMbufWord_errOvf (w : Fin 16) (v : Word32) (s : State) :
    (setMbufWord w v s).errOvf = s.errOvf := rfl
@[simp] theorem setMbufWord_errInfo (w : Fin 16) (v : Word32) (s : State) :
    (setMbufWord w v s).errInfo = s.errInfo := rfl
@[simp] theorem setMbufWord_schedule (w : Fin 16) (v : Word32) (s : State) :
    (setMbufWord w v s).schedule = s.schedule := rfl
@[simp] theorem setMbufWord_replies (w : Fin 16) (v : Word32) (s : State) :
    (setMbufWord w v s).replies = s.replies := rfl

/-! ### setPending -/

@[simp] theorem setPending_params (cmd : Word32) (s : State) :
    (setPending cmd s).params = s.params := rfl
@[simp] theorem setPending_h (cmd : Word32) (s : State) :
    (setPending cmd s).h = s.h := rfl
@[simp] theorem setPending_n (cmd : Word32) (s : State) :
    (setPending cmd s).n = s.n := rfl
@[simp] theorem setPending_sigma (cmd : Word32) (s : State) :
    (setPending cmd s).sigma = s.sigma := rfl
@[simp] theorem setPending_mbuf (cmd : Word32) (s : State) :
    (setPending cmd s).mbuf = s.mbuf := rfl
@[simp] theorem setPending_phase (cmd : Word32) (s : State) :
    (setPending cmd s).phase = s.phase := rfl
@[simp] theorem setPending_pend (cmd : Word32) (s : State) :
    (setPending cmd s).pend = some cmd := rfl
@[simp] theorem setPending_ieDone (cmd : Word32) (s : State) :
    (setPending cmd s).ieDone = s.ieDone := rfl
@[simp] theorem setPending_ieErr (cmd : Word32) (s : State) :
    (setPending cmd s).ieErr = s.ieErr := rfl
@[simp] theorem setPending_cmdDone (cmd : Word32) (s : State) :
    (setPending cmd s).cmdDone = s.cmdDone := rfl
@[simp] theorem setPending_err (cmd : Word32) (s : State) :
    (setPending cmd s).err = s.err := rfl
@[simp] theorem setPending_errCode (cmd : Word32) (s : State) :
    (setPending cmd s).errCode = s.errCode := rfl
@[simp] theorem setPending_errOvf (cmd : Word32) (s : State) :
    (setPending cmd s).errOvf = s.errOvf := rfl
@[simp] theorem setPending_errInfo (cmd : Word32) (s : State) :
    (setPending cmd s).errInfo = s.errInfo := rfl
@[simp] theorem setPending_schedule (cmd : Word32) (s : State) :
    (setPending cmd s).schedule = s.schedule := rfl
@[simp] theorem setPending_replies (cmd : Word32) (s : State) :
    (setPending cmd s).replies = s.replies := rfl

/-! ### setPhase -/

@[simp] theorem setPhase_params (p : Phase) (s : State) :
    (setPhase p s).params = s.params := rfl
@[simp] theorem setPhase_h (p : Phase) (s : State) :
    (setPhase p s).h = s.h := rfl
@[simp] theorem setPhase_n (p : Phase) (s : State) :
    (setPhase p s).n = s.n := rfl
@[simp] theorem setPhase_sigma (p : Phase) (s : State) :
    (setPhase p s).sigma = s.sigma := rfl
@[simp] theorem setPhase_mbuf (p : Phase) (s : State) :
    (setPhase p s).mbuf = s.mbuf := rfl
@[simp] theorem setPhase_phase (p : Phase) (s : State) :
    (setPhase p s).phase = p := rfl
@[simp] theorem setPhase_pend (p : Phase) (s : State) :
    (setPhase p s).pend = s.pend := rfl
@[simp] theorem setPhase_ieDone (p : Phase) (s : State) :
    (setPhase p s).ieDone = s.ieDone := rfl
@[simp] theorem setPhase_ieErr (p : Phase) (s : State) :
    (setPhase p s).ieErr = s.ieErr := rfl
@[simp] theorem setPhase_cmdDone (p : Phase) (s : State) :
    (setPhase p s).cmdDone = s.cmdDone := rfl
@[simp] theorem setPhase_err (p : Phase) (s : State) :
    (setPhase p s).err = s.err := rfl
@[simp] theorem setPhase_errCode (p : Phase) (s : State) :
    (setPhase p s).errCode = s.errCode := rfl
@[simp] theorem setPhase_errOvf (p : Phase) (s : State) :
    (setPhase p s).errOvf = s.errOvf := rfl
@[simp] theorem setPhase_errInfo (p : Phase) (s : State) :
    (setPhase p s).errInfo = s.errInfo := rfl
@[simp] theorem setPhase_schedule (p : Phase) (s : State) :
    (setPhase p s).schedule = s.schedule := rfl
@[simp] theorem setPhase_replies (p : Phase) (s : State) :
    (setPhase p s).replies = s.replies := rfl

/-! ### reply -/

@[simp] theorem reply_params (v : Word32) (s : State) :
    (reply v s).params = s.params := rfl
@[simp] theorem reply_h (v : Word32) (s : State) :
    (reply v s).h = s.h := rfl
@[simp] theorem reply_n (v : Word32) (s : State) :
    (reply v s).n = s.n := rfl
@[simp] theorem reply_sigma (v : Word32) (s : State) :
    (reply v s).sigma = s.sigma := rfl
@[simp] theorem reply_mbuf (v : Word32) (s : State) :
    (reply v s).mbuf = s.mbuf := rfl
@[simp] theorem reply_phase (v : Word32) (s : State) :
    (reply v s).phase = s.phase := rfl
@[simp] theorem reply_pend (v : Word32) (s : State) :
    (reply v s).pend = s.pend := rfl
@[simp] theorem reply_ieDone (v : Word32) (s : State) :
    (reply v s).ieDone = s.ieDone := rfl
@[simp] theorem reply_ieErr (v : Word32) (s : State) :
    (reply v s).ieErr = s.ieErr := rfl
@[simp] theorem reply_cmdDone (v : Word32) (s : State) :
    (reply v s).cmdDone = s.cmdDone := rfl
@[simp] theorem reply_err (v : Word32) (s : State) :
    (reply v s).err = s.err := rfl
@[simp] theorem reply_errCode (v : Word32) (s : State) :
    (reply v s).errCode = s.errCode := rfl
@[simp] theorem reply_errOvf (v : Word32) (s : State) :
    (reply v s).errOvf = s.errOvf := rfl
@[simp] theorem reply_errInfo (v : Word32) (s : State) :
    (reply v s).errInfo = s.errInfo := rfl
@[simp] theorem reply_schedule (v : Word32) (s : State) :
    (reply v s).schedule = s.schedule := rfl
@[simp] theorem reply_replies (v : Word32) (s : State) :
    (reply v s).replies = s.replies ++ [v] := rfl

/-! ### setSchedule -/

@[simp] theorem setSchedule_params (ts : List Turn) (s : State) :
    (setSchedule ts s).params = s.params := rfl
@[simp] theorem setSchedule_h (ts : List Turn) (s : State) :
    (setSchedule ts s).h = s.h := rfl
@[simp] theorem setSchedule_n (ts : List Turn) (s : State) :
    (setSchedule ts s).n = s.n := rfl
@[simp] theorem setSchedule_sigma (ts : List Turn) (s : State) :
    (setSchedule ts s).sigma = s.sigma := rfl
@[simp] theorem setSchedule_mbuf (ts : List Turn) (s : State) :
    (setSchedule ts s).mbuf = s.mbuf := rfl
@[simp] theorem setSchedule_phase (ts : List Turn) (s : State) :
    (setSchedule ts s).phase = s.phase := rfl
@[simp] theorem setSchedule_pend (ts : List Turn) (s : State) :
    (setSchedule ts s).pend = s.pend := rfl
@[simp] theorem setSchedule_ieDone (ts : List Turn) (s : State) :
    (setSchedule ts s).ieDone = s.ieDone := rfl
@[simp] theorem setSchedule_ieErr (ts : List Turn) (s : State) :
    (setSchedule ts s).ieErr = s.ieErr := rfl
@[simp] theorem setSchedule_cmdDone (ts : List Turn) (s : State) :
    (setSchedule ts s).cmdDone = s.cmdDone := rfl
@[simp] theorem setSchedule_err (ts : List Turn) (s : State) :
    (setSchedule ts s).err = s.err := rfl
@[simp] theorem setSchedule_errCode (ts : List Turn) (s : State) :
    (setSchedule ts s).errCode = s.errCode := rfl
@[simp] theorem setSchedule_errOvf (ts : List Turn) (s : State) :
    (setSchedule ts s).errOvf = s.errOvf := rfl
@[simp] theorem setSchedule_errInfo (ts : List Turn) (s : State) :
    (setSchedule ts s).errInfo = s.errInfo := rfl
@[simp] theorem setSchedule_schedule (ts : List Turn) (s : State) :
    (setSchedule ts s).schedule = ts := rfl
@[simp] theorem setSchedule_replies (ts : List Turn) (s : State) :
    (setSchedule ts s).replies = s.replies := rfl

/-! ### raiseError -/

@[simp] theorem raiseError_params (code : ErrorCode) (info : Word32) (s : State) :
    (raiseError code info s).params = s.params := by
  unfold raiseError; split <;> simp_all
@[simp] theorem raiseError_h (code : ErrorCode) (info : Word32) (s : State) :
    (raiseError code info s).h = s.h := by
  unfold raiseError; split <;> simp_all
@[simp] theorem raiseError_n (code : ErrorCode) (info : Word32) (s : State) :
    (raiseError code info s).n = s.n := by
  unfold raiseError; split <;> simp_all
@[simp] theorem raiseError_sigma (code : ErrorCode) (info : Word32) (s : State) :
    (raiseError code info s).sigma = s.sigma := by
  unfold raiseError; split <;> simp_all
@[simp] theorem raiseError_mbuf (code : ErrorCode) (info : Word32) (s : State) :
    (raiseError code info s).mbuf = s.mbuf := by
  unfold raiseError; split <;> simp_all
@[simp] theorem raiseError_phase (code : ErrorCode) (info : Word32) (s : State) :
    (raiseError code info s).phase = s.phase := by
  unfold raiseError; split <;> simp_all
@[simp] theorem raiseError_pend (code : ErrorCode) (info : Word32) (s : State) :
    (raiseError code info s).pend = s.pend := by
  unfold raiseError; split <;> simp_all
@[simp] theorem raiseError_ieDone (code : ErrorCode) (info : Word32) (s : State) :
    (raiseError code info s).ieDone = s.ieDone := by
  unfold raiseError; split <;> simp_all
@[simp] theorem raiseError_ieErr (code : ErrorCode) (info : Word32) (s : State) :
    (raiseError code info s).ieErr = s.ieErr := by
  unfold raiseError; split <;> simp_all
@[simp] theorem raiseError_cmdDone (code : ErrorCode) (info : Word32) (s : State) :
    (raiseError code info s).cmdDone = s.cmdDone := by
  unfold raiseError; split <;> simp_all
@[simp] theorem raiseError_err (code : ErrorCode) (info : Word32) (s : State) :
    (raiseError code info s).err = true := by
  unfold raiseError; split <;> simp_all
@[simp] theorem raiseError_errCode (code : ErrorCode) (info : Word32) (s : State) :
    (raiseError code info s).errCode = if s.err then s.errCode else code := by
  unfold raiseError; split <;> simp_all
@[simp] theorem raiseError_errOvf (code : ErrorCode) (info : Word32) (s : State) :
    (raiseError code info s).errOvf = if s.err then true else s.errOvf := by
  unfold raiseError; split <;> simp_all
@[simp] theorem raiseError_errInfo (code : ErrorCode) (info : Word32) (s : State) :
    (raiseError code info s).errInfo = if s.err then s.errInfo else info := by
  unfold raiseError; split <;> simp_all
@[simp] theorem raiseError_schedule (code : ErrorCode) (info : Word32) (s : State) :
    (raiseError code info s).schedule = s.schedule := by
  unfold raiseError; split <;> simp_all
@[simp] theorem raiseError_replies (code : ErrorCode) (info : Word32) (s : State) :
    (raiseError code info s).replies = s.replies := by
  unfold raiseError; split <;> simp_all

/-! ### withFetchWord -/

@[simp] theorem withFetchWord_params (s : State) (nbits w : Nat) :
    (s.withFetchWord nbits w).params = s.params := rfl
@[simp] theorem withFetchWord_h (s : State) (nbits w : Nat) :
    (s.withFetchWord nbits w).h = s.h := rfl
@[simp] theorem withFetchWord_n (s : State) (nbits w : Nat) :
    (s.withFetchWord nbits w).n = s.n := rfl
@[simp] theorem withFetchWord_sigma (s : State) (nbits w : Nat) :
    (s.withFetchWord nbits w).sigma = s.sigma := rfl
@[simp] theorem withFetchWord_mbuf (s : State) (nbits w : Nat) :
    (s.withFetchWord nbits w).mbuf = s.mbuf := rfl
@[simp] theorem withFetchWord_phase (s : State) (nbits w : Nat) :
    (s.withFetchWord nbits w).phase = phaseFor (BitVec.ofNat 32 (tableBits nbits w)) s.phase := rfl
@[simp] theorem withFetchWord_pend (s : State) (nbits w : Nat) :
    (s.withFetchWord nbits w).pend = some (BitVec.ofNat 32 (tableBits nbits w)) := rfl
@[simp] theorem withFetchWord_ieDone (s : State) (nbits w : Nat) :
    (s.withFetchWord nbits w).ieDone = s.ieDone := rfl
@[simp] theorem withFetchWord_ieErr (s : State) (nbits w : Nat) :
    (s.withFetchWord nbits w).ieErr = s.ieErr := rfl
@[simp] theorem withFetchWord_cmdDone (s : State) (nbits w : Nat) :
    (s.withFetchWord nbits w).cmdDone = s.cmdDone := rfl
@[simp] theorem withFetchWord_err (s : State) (nbits w : Nat) :
    (s.withFetchWord nbits w).err = s.err := rfl
@[simp] theorem withFetchWord_errCode (s : State) (nbits w : Nat) :
    (s.withFetchWord nbits w).errCode = s.errCode := rfl
@[simp] theorem withFetchWord_errOvf (s : State) (nbits w : Nat) :
    (s.withFetchWord nbits w).errOvf = s.errOvf := rfl
@[simp] theorem withFetchWord_errInfo (s : State) (nbits w : Nat) :
    (s.withFetchWord nbits w).errInfo = s.errInfo := rfl
@[simp] theorem withFetchWord_schedule (s : State) (nbits w : Nat) :
    (s.withFetchWord nbits w).schedule = coreNext s.schedule := rfl
@[simp] theorem withFetchWord_replies (s : State) (nbits w : Nat) :
    (s.withFetchWord nbits w).replies = s.replies := rfl

end Sys2Proof.Machine
end

