-- ==== Sys2Proof/Laws/Ops.lean ====
section
/-! SUPPORT. What each shared operation, each host access and each step of the core can do, said once. -/

namespace Sys2Proof.Machine

/-! ### Errors -/

/-- The first error is captured (R160). -/
theorem raiseError_first {code : ErrorCode} {info : Word32} {s : State} (h : s.err = false) :
    raiseError code info s = { s with errCode := code, errInfo := info, err := true } := by
  simp [raiseError, h]

/-- A later error only sets ERR_OVF (R160). -/
theorem raiseError_later {code : ErrorCode} {info : Word32} {s : State} (h : s.err = true) :
    raiseError code info s = { s with errOvf := true } := by
  simp [raiseError, h]

/-- An error touches the error capture and nothing else (R160, R170). -/
theorem raiseError_eq (code : ErrorCode) (info : Word32) (s : State) :
    raiseError code info s =
      { s with
        err := true
        errCode := if s.err then s.errCode else code
        errOvf := if s.err then true else s.errOvf
        errInfo := if s.err then s.errInfo else info } := by
  cases h : s.err
  · rw [raiseError_first h]; simp
  · rw [raiseError_later h]; rw [← h]; simp

/-! ### Derived bits -/

@[simp] theorem chain_commit (c : Chain) (p : Phase) (s : State) : (commit c p s).chain = c := rfl

@[simp] theorem busy_raiseError (code : ErrorCode) (info : Word32) (s : State) :
    (raiseError code info s).busy = s.busy := by
  simp [State.busy]

@[simp] theorem chain_raiseError (code : ErrorCode) (info : Word32) (s : State) :
    (raiseError code info s).chain = s.chain := by
  simp [State.chain]

/-- BUSY reads 1 exactly when a command is pending or the self-test runs (R40). -/
theorem busy_iff (s : State) : s.busy = true ↔ s.pend.isSome = true ∨ s.phase = .selfTest := by
  simp [State.busy]

/-- BUSY reads 0 exactly when nothing is pending and the self-test is over (R40). -/
theorem not_busy_iff (s : State) : s.busy = false ↔ s.pend = none ∧ s.phase ≠ .selfTest := by
  simp [State.busy]

/-- With CMD_DONE just set by a completion, `irq` is up when IE_DONE is set (R38, R172). -/
@[simp] theorem irq_commit (c : Chain) (p : Phase) (s : State) :
    (commit c p s).irq = (s.ieDone || (s.err && s.ieErr)) := by
  simp [State.irq]

/-- With the events cleared, `irq` is down whatever the enables are (R38, R171). -/
theorem irq_cleared {s : State} (hd : s.cmdDone = false) (he : s.err = false) : s.irq = false := by
  simp [State.irq, hd, he]

/-! ### Host accesses -/

/-- A command word is refused with an error that is neither NONE nor CFG, or it becomes pending, and then it decodes to a
command that is legal in a phase with BUSY = 0 (R120). -/
theorem acceptCommand_cases (cmd : Word32) (s : State) :
    (∃ code, code ≠ .none ∧ code ≠ .cfg ∧ acceptCommand cmd s = raiseError code cmd s) ∨
      (s.phase ≠ .cfgFault ∧ s.busy = false ∧ (∃ i, decode cmd = .ok i ∧ legal i s.phase = true) ∧
        acceptCommand cmd s = setPending cmd s) := by
  unfold acceptCommand
  split
  · exact .inl ⟨.faulted, by decide, by decide, rfl⟩
  · rename_i hp
    split
    · exact .inl ⟨.busy, by decide, by decide, rfl⟩
    · rename_i hb
      split
      · rename_i e _
        exact .inl ⟨decodeErrorCode e, by cases e <;> decide, by cases e <;> decide, rfl⟩
      · rename_i i hd
        split
        · rename_i hl
          exact .inr ⟨hp, by simpa using hb, ⟨i, hd, hl⟩, rfl⟩
        · exact .inl ⟨.seq, by decide, by decide, rfl⟩

/-- Everything a host access can do to the state. -/
inductive AccessEffect (s : State) : Access → State → Prop where
  /-- A served read returns a word and changes no register (R128, R60). -/
  | served (size : AccessSize) (off : Offset) (r : Reg) (h : target size off = some r) :
      AccessEffect s (.read size off) (reply (readReg r s) s)
  /-- A refused read returns 0 and raises BUS (R128). -/
  | readRefused (size : AccessSize) (off : Offset) (h : target size off = none) :
      AccessEffect s (.read size off) (reply 0 (raiseError .bus (accessInfo false size off) s))
  /-- A refused write raises an error that is neither NONE nor CFG (R129, R120, R132). -/
  | writeRefused (size : AccessSize) (off : Offset) (v : Word32) (code : ErrorCode) (info : Word32)
      (hn : code ≠ .none) (hc : code ≠ .cfg) : AccessEffect s (.write size off v) (raiseError code info s)
  /-- A CTRL write with bit 31 set resets (R130). -/
  | softReset (size : AccessSize) (off : Offset) (v : Word32) (h : target size off = some .ctrl)
      (hv : v.getLsbD 31 = true) : AccessEffect s (.write size off v) (resetCore s)
  /-- A CTRL write with bit 31 clear sets the enables (R130). -/
  | enables (size : AccessSize) (off : Offset) (v : Word32) (h : target size off = some .ctrl)
      (hv : v.getLsbD 31 = false) :
      AccessEffect s (.write size off v) (setEnables (v.getLsbD 0) (v.getLsbD 1) s)
  /-- An EVENT write that leaves the error capture (R131). -/
  | eventKept (size : AccessSize) (off : Offset) (v : Word32) (h : target size off = some .event)
      (hv : v.getLsbD 1 = false) : AccessEffect s (.write size off v) (writeEventDone v s)
  /-- An EVENT write that clears the error capture (R131, R171). -/
  | eventCleared (size : AccessSize) (off : Offset) (v : Word32) (h : target size off = some .event)
      (hv : v.getLsbD 1 = true) : AccessEffect s (.write size off v) (clearError (writeEventDone v s))
  /-- An MBUF write while BUSY = 0 (R132). -/
  | stored (size : AccessSize) (off : Offset) (v : Word32) (w : Fin 16) (h : target size off = some (.mbuf w))
      (hb : s.busy = false) : AccessEffect s (.write size off v) (setMbufWord w v s)
  /-- An accepted command (R120). -/
  | accepted (size : AccessSize) (off : Offset) (cmd : Word32) (i : Instr) (h : target size off = some .cmd)
      (hp : s.phase ≠ .cfgFault) (hb : s.busy = false) (hd : decode cmd = .ok i) (hl : legal i s.phase = true) :
      AccessEffect s (.write size off cmd) (setPending cmd s)

/-- A host access has one of the effects listed (R128, R129). -/
theorem hostAccess_effect (a : Access) (s : State) : AccessEffect s a (hostAccess a s) := by
  cases a with
  | read size off =>
    simp only [hostAccess, busRead]
    split
    · exact .readRefused size off ‹_›
    · exact .served size off _ ‹_›
  | write size off v =>
    simp only [hostAccess, busWrite]
    split
    · rename_i h
      unfold writeCtrl
      split
      · exact .softReset size off v h ‹_›
      · exact .enables size off v h (Bool.not_eq_true _ ▸ ‹¬ _›)
    · rename_i h
      unfold writeEvent
      split
      · exact .eventCleared size off v h ‹_›
      · exact .eventKept size off v h (Bool.not_eq_true _ ▸ ‹¬ _›)
    · rename_i h
      rcases acceptCommand_cases v s with ⟨code, hn, hc, e⟩ | ⟨hp, hb, ⟨i, hd, hl⟩, e⟩
      · rw [e]; exact .writeRefused size off v code v hn hc
      · rw [e]; exact .accepted size off v i h hp hb hd hl
    · rename_i w h
      unfold writeMbuf
      split
      · exact .writeRefused size off v .wbusy _ (by decide) (by decide)
      · exact .stored size off v w h (Bool.not_eq_true _ ▸ ‹¬ _›)
    all_goals exact .writeRefused size off v .bus _ (by decide) (by decide)

/-! ### Commands and core steps -/

/-- Every command's completion step answers a next state, the commit of some hash state and phase (R121). -/
theorem exec_eq_commit (i : Instr) (s : State) : ∃ c p, exec i s = .next (commit c p s) := by
  cases i <;> exact ⟨_, _, rfl⟩

/-- The phase after a completion step (R127). -/
def phaseAfter (i : Instr) (p : Phase) : Phase :=
  match i with
  | .nop => p
  | .init => .absorbing
  | .absorb => p
  | .final _ => .done

/-- The hash state after a completion step (R122 to R125). -/
def chainAfter (i : Instr) (s : State) : Chain :=
  match i with
  | .nop => s.chain
  | .init => chainStart
  | .absorb => absorbBlock s.params s.chain s.mbuf
  | .final r => finishChain s.params s.chain (remainder s.mbuf r)

/-- A completion step, all commands at once (R121 to R125). -/
theorem exec_eq (i : Instr) (s : State) : exec i s = .next (commit (chainAfter i s) (phaseAfter i s.phase) s) := by
  cases i <;> rfl

/-- With a command pending, the core's step is that command's completion step (R121). -/
theorem coreStep_pending {s : State} {cmd : Word32} {i : Instr} (h : s.pend = some cmd) (hd : decode cmd = .ok i) :
    coreStep s = exec i s := by
  simp [coreStep, h, hd]

/-- With nothing pending in SELFTEST, the core's step is the self-test end (R191). -/
theorem coreStep_selfTest {s : State} (h : s.pend = none) (hp : s.phase = .selfTest) :
    coreStep s = .next (selfTestEnd s) := by
  simp [coreStep, h, hp]

/-- With nothing pending outside SELFTEST, the core is quiescent (R180). -/
theorem coreStep_quiet {s : State} (h : s.pend = none) (hp : s.phase ≠ .selfTest) : coreStep s = .next s := by
  simp [coreStep, h, hp]

/-- Everything a core step that answers a next state can be. -/
theorem coreStep_cases {s t : State} (h : coreStep s = .next t) :
    (∃ cmd i, s.pend = some cmd ∧ decode cmd = .ok i ∧ t = commit (chainAfter i s) (phaseAfter i s.phase) s) ∨
      (s.pend = none ∧ s.phase = .selfTest ∧ t = selfTestEnd s) ∨
      (s.pend = none ∧ s.phase ≠ .selfTest ∧ t = s) := by
  rcases hp : s.pend with _ | cmd
  · by_cases hs : s.phase = .selfTest
    · rw [coreStep_selfTest hp hs] at h; cases h; exact .inr (.inl ⟨rfl, hs, rfl⟩)
    · rw [coreStep_quiet hp hs] at h; cases h; exact .inr (.inr ⟨rfl, hs, rfl⟩)
  · rcases hd : decode cmd with e | i
    · simp [coreStep, hp, hd] at h
    · rw [coreStep_pending hp hd, exec_eq] at h; cases h; exact .inl ⟨cmd, i, rfl, hd, rfl⟩

/-- A step takes its turn in the state with that turn removed from the schedule (R63). -/
theorem step_eq (s : State) : step s = runTurn s.nextTurn (setSchedule s.schedule.tail s) := by
  obtain ⟨p, h, n, g, m, ph, pe, a, b, c, d, e, f, i, sched, r⟩ := s
  cases sched <;> rfl

/-- Everything a step that answers a next state can be: the host's access, a hardware reset, or a core step. -/
theorem step_cases {s t : State} (h : step s = .next t) :
    (∃ a, s.nextTurn = .access a ∧ t = hostAccess a (setSchedule s.schedule.tail s)) ∨
      (s.nextTurn = .hardReset ∧ t = resetCore (setSchedule s.schedule.tail s)) ∨
      (s.nextTurn = .core ∧ coreStep (setSchedule s.schedule.tail s) = .next t) := by
  rw [step_eq] at h
  rcases hn : s.nextTurn with a | _ | _ <;> rw [hn] at h
  · exact .inl ⟨a, rfl, by cases h; rfl⟩
  · exact .inr (.inl ⟨rfl, by cases h; rfl⟩)
  · exact .inr (.inr ⟨rfl, h⟩)

/-! ### Runs -/

theorem run_zero (s : State) : Host.Core.run core 0 s = .next s := rfl

/-- A run of `k + 1` steps whose first step answers `u` is a run of `k` steps from `u`. -/
theorem run_succ {s u : State} (k : Nat) (h : step s = .next u) :
    Host.Core.run core (k + 1) s = Host.Core.run core k u := by
  have hs : core.step s = .next u := h
  refine (Host.Core.run.eq_2 core s k).trans ?_
  rw [hs]

/-- A run of `k + 1` steps that answers a next state begins with a step that does. -/
theorem run_succ_inv {s t : State} {k : Nat} (h : Host.Core.run core (k + 1) s = .next t) :
    ∃ u : State, step s = .next u ∧ Host.Core.run core k u = .next t := by
  rcases hs : step s with u | r | r
  · exact ⟨u, rfl, run_succ k hs ▸ h⟩
  all_goals
    have hc : core.step s = _ := hs
    have hr := (Host.Core.run.eq_2 core s k).symm.trans h
    rw [hc] at hr
    cases hr

/-- Runs compose. -/
theorem run_add {s u : State} (j k : Nat) (h : Host.Core.run core j s = .next u) :
    Host.Core.run core (j + k) s = Host.Core.run core k u := by
  induction j generalizing s with
  | zero => rw [run_zero] at h; cases h; rw [Nat.zero_add]
  | succ j ih =>
    obtain ⟨v, hv, hr⟩ := run_succ_inv h
    rw [Nat.add_right_comm, run_succ (j + k) hv, ih hr]

/-- What holds of a state, and is kept by every step, holds after every run. -/
theorem run_keeps {P : State → Prop} (hP : ∀ s t, P s → step s = .next t → P t) {k : Nat} {s t : State} (h : P s)
    (hr : Host.Core.run core k s = .next t) : P t := by
  induction k generalizing s with
  | zero => rw [run_zero] at hr; cases hr; exact h
  | succ k ih =>
    obtain ⟨u, hu, hr⟩ := run_succ_inv hr
    exact ih (hP s u h hu) hr

end Sys2Proof.Machine
end

