-- ==== Sys2Proof/Laws/PerInstr.lean ====
section
/-! SUPPORT. Facts about commands as syntax, one lemma per constructor. -/

namespace Sys2Proof.Laws

/-- The fields of a well-formed command's word: OPC and REMLEN are the command's, REMLEN as a number is the remainder
length, and RSVD is 0 (R70, R71). -/
def EncodeFields.Statement (i : Instr) : Prop :=
  WellFormed i → opcField (encode i) = i.opc ∧ rsvdField (encode i) = 0 ∧
    (remlenField (encode i)).toNat = match i with
      | .nop => 0
      | .init => 0
      | .absorb => 0
      | .final r => r

theorem EncodeFields.nop : EncodeFields.Statement .nop := fun _ =>
  ⟨opcField_encode _, rsvdField_encode _, by rw [remlenField_encode]; rfl⟩

theorem EncodeFields.init : EncodeFields.Statement .init := fun _ =>
  ⟨opcField_encode _, rsvdField_encode _, by rw [remlenField_encode]; rfl⟩

theorem EncodeFields.absorb : EncodeFields.Statement .absorb := fun _ =>
  ⟨opcField_encode _, rsvdField_encode _, by rw [remlenField_encode]; rfl⟩

theorem EncodeFields.final (r : Nat) : EncodeFields.Statement (.final r) := fun hw =>
  ⟨opcField_encode _, rsvdField_encode _, by
    have hr : r < 64 := by simpa [WellFormed, Instr.wellFormed] using hw
    rw [remlenField_encode]
    simp [Instr.remlen]
    omega⟩

end Sys2Proof.Laws
end

