-- ==== Sys2Proof/Laws/Window.lean ====
section
/-! SUPPORT. Where the registers of the window are, and which operation a write to each of them is. -/

namespace Sys2Proof.Machine

/-- A choice whose first branch is not the answer answers with its second. -/
theorem ite_skip {c : Prop} [Decidable c] {a b r : Option Reg} (h : (if c then a else b) = r) (ha : a ≠ r) : b = r := by
  by_cases hc : c
  · exact absurd ((if_pos hc).symm.trans h) ha
  · exact (if_neg hc).symm.trans h

/-- CTRL is reached only by a 32-bit access at offset 0x000 (R51, R53). -/
theorem target_eq_ctrl {size : AccessSize} {off : Offset} (h : target size off = some .ctrl) :
    size = .bits32 ∧ off = 0x000 := by
  unfold target at h
  by_cases hc : size = .bits32 ∧ off.toNat % 4 = 0
  · rw [if_pos hc, regAt] at h
    refine ⟨hc.1, BitVec.eq_of_toNat_eq (?_ : off.toNat = 0)⟩
    by_cases h4 : off.toNat < 0x004
    · omega
    · rw [if_neg h4] at h
      iterate 10 replace h := ite_skip h nofun
      cases h
  · rw [if_neg hc] at h
    cases h

/-- EVENT is reached only by a 32-bit access at offset 0x008 (R51, R53). -/
theorem target_eq_event {size : AccessSize} {off : Offset} (h : target size off = some .event) :
    size = .bits32 ∧ off = 0x008 := by
  unfold target at h
  by_cases hc : size = .bits32 ∧ off.toNat % 4 = 0
  · rw [if_pos hc, regAt] at h
    refine ⟨hc.1, BitVec.eq_of_toNat_eq (?_ : off.toNat = 8)⟩
    by_cases h8 : off.toNat < 0x008
    · by_cases h4 : off.toNat < 0x004
      · rw [if_pos h4] at h; cases h
      · rw [if_neg h4, if_pos h8] at h; cases h
    · iterate 2 replace h := ite_skip h nofun
      by_cases h12 : off.toNat < 0x00C
      · omega
      · rw [if_neg h12] at h
        iterate 8 replace h := ite_skip h nofun
        cases h
  · rw [if_neg hc] at h
    cases h

theorem target_mbuf (w : Fin 16) : target .bits32 (BitVec.ofNat 12 (0x040 + 4 * w.val)) = some (.mbuf w) := by
  revert w; decide

theorem target_h (w : Fin 16) : target .bits32 (BitVec.ofNat 12 (0x080 + 4 * w.val)) = some (.h w) := by
  revert w; decide

theorem target_n (w : Fin 16) : target .bits32 (BitVec.ofNat 12 (0x0C0 + 4 * w.val)) = some (.n w) := by
  revert w; decide

theorem target_sigma (w : Fin 16) : target .bits32 (BitVec.ofNat 12 (0x100 + 4 * w.val)) = some (.sigma w) := by
  revert w; decide

theorem hostAccess_ctrl (v : Word32) (s : State) : hostAccess (.write .bits32 0x000 v) s = writeCtrl v s := by
  have h : target .bits32 0x000 = some .ctrl := by decide
  simp only [hostAccess, busWrite, h]

theorem hostAccess_event (v : Word32) (s : State) : hostAccess (.write .bits32 0x008 v) s = writeEvent v s := by
  have h : target .bits32 0x008 = some .event := by decide
  simp only [hostAccess, busWrite, h]

theorem hostAccess_cmd (cmd : Word32) (s : State) : hostAccess (.write .bits32 0x010 cmd) s = acceptCommand cmd s := by
  have h : target .bits32 0x010 = some .cmd := by decide
  simp only [hostAccess, busWrite, h]

theorem hostAccess_mbuf (w : Fin 16) (v : Word32) (s : State) :
    hostAccess (.write .bits32 (BitVec.ofNat 12 (0x040 + 4 * w.val)) v) s =
      writeMbuf (BitVec.ofNat 12 (0x040 + 4 * w.val)) w v s := by
  simp only [hostAccess, busWrite, target_mbuf]

/-- CLREV clears CMD_DONE and the error capture (R78, R131). -/
theorem hostAccess_clearEvents (s : State) :
    hostAccess (.write .bits32 0x008 0x00000003) s = clearError (clearDone s) := by
  rw [hostAccess_event]
  rfl

/-- A CTRL write of 1 or 3 sets the enables and does not reset (R130). -/
theorem hostAccess_enableDoneIrq (ieErr : Bool) (s : State) :
    hostAccess (.write .bits32 0x000 (if ieErr then 0x00000003 else 0x00000001)) s = setEnables true ieErr s := by
  rw [hostAccess_ctrl]
  cases ieErr <;> rfl

end Sys2Proof.Machine
end

