-- ==== Sys2Proof/Tests/Slice0.lean ====
section
/-! SUPPORT. Small tests. Every expected value is copied from the spec: the worked encodings of spec/30_encoding.md R79 and
the vectors V-… of spec/95_test_vectors.md. The last part gives, for every statement with hypotheses, a concrete state and
operands that meet them. -/

namespace Sys2Proof.Tests

open Sys2Proof.Machine

/-! ### Tables and states the tests use -/

/-- A block written as the spec prints it: 128 hex digits, byte 0 first. -/
def lit (v : Nat) : Block := Vector.ofFn fun i => BitVec.ofNat 8 (v >>> (8 * (63 - i.val)))

/-- `INC`, the block whose byte `i` is `i`. -/
def inc : Block := Vector.ofFn fun i => BitVec.ofNat 8 i.val

/-- `ONES`. -/
def ones : Block := Vector.replicate 64 0xFF

/-- TOY-A (spec/95_test_vectors.md section 2), with INT_ORDER = BE and PAD2_ORDER = P0_THEN_P1. -/
def toyA : Params where
  sbox := Vector.ofFn fun x => BitVec.ofNat 8 (7 * x.val + 3)
  perm := Vector.ofFn fun i => Fin.ofNat 64 (8 * (i.val % 8) + i.val / 8)
  basis := Vector.ofFn fun j => BitVec.ofNat 64 (0x9E3779B97F4A7C15 * (j.val + 1))
  roundConst := Vector.ofFn fun i => Vector.ofFn fun b => BitVec.ofNat 8 (37 * i.val + b.val)
  intOrder := .be
  pad2Order := .p0ThenP1

/-- TOY-0 (spec/95_test_vectors.md section 2). -/
def toy0 : Params where
  sbox := Vector.ofFn fun x => BitVec.ofNat 8 x.val
  perm := Vector.ofFn fun i => i
  basis := Vector.ofFn fun j => BitVec.ofNat 64 (2 ^ j.val)
  roundConst := Vector.ofFn fun _ => zeroBlock
  intOrder := .be
  pad2Order := .p0ThenP1

/-- TOY-A with SBOX[1] = SBOX[0] = 3 (V-B3). -/
def toyBad : Params := { toyA with sbox := toyA.sbox.set 1 3 }

/-- A state of the TOY-A instance with the given phase and pending word, all else as after reset. -/
def at' (phase : Phase) (pend : Option Word32) : Machine.State := { State.resetOf toyA with phase := phase, pend := pend }

/-- `at'` with an error captured. -/
def withError (phase : Phase) (code : ErrorCode) (info : Word32) : Machine.State :=
  { at' phase none with err := true, errCode := code, errInfo := info }

/-- The state an outcome holds, or `s` where it holds none. -/
def stateOf (s : Machine.State) : Host.Outcome Machine.State Fault Refusal → Machine.State
  | .next t => t
  | .fault _ => s
  | .refused _ => s

/-- The state after a CMD write. -/
def cmdWrite (cmd : Word32) (s : Machine.State) : Machine.State := hostAccess (.write .bits32 0x010 cmd) s

/-! ### WellFormed, decoding -/

/-- The one check of WellFormed refuses a remainder of 64 bytes (R71). -/
theorem test_wellFormed_refuses_64 : Instr.wellFormed (.final 64) = false := by decide

theorem test_wellFormed_accepts_63 : Instr.wellFormed (.final 63) = true := by decide

/-- NOP is OPC 0x00 with all other bits 0 (R72). -/
theorem test_decode_nop : decode 0b00000000000000000000000000000000 = .ok .nop := by decide

/-- INIT is OPC 0x01 (R72). -/
theorem test_decode_init : decode 0b00000000000000000000000000000001 = .ok .init := by decide

/-- ABSORB is OPC 0x02 (R72). -/
theorem test_decode_absorb : decode 0b00000000000000000000000000000010 = .ok .absorb := by decide

/-- FINAL 3 is REMLEN 000011 at bits 13:8 over OPC 0x03 (R79). -/
theorem test_decode_final : decode 0b00000000000000000000001100000011 = .ok (.final 3) := by decide

/-- FINAL 62 is the word 0x00003E03 (W1a). -/
theorem test_decode_final_62 : decode 0x00003E03 = .ok (.final 62) := by decide

/-- OPCODE wins over RSVD (V-C8, R74). -/
theorem test_decode_opcode_first : decode 0x80000004 = .error .opcode := by decide

/-- ABSORB with REMLEN = 1, and FINAL with bit 14 set, are RSVD (V-C5, V-C6). -/
theorem test_decode_rsvd : decode 0x00000102 = .error .rsvd ∧ decode 0x00004003 = .error .rsvd := by decide

/-- A word is stored least significant byte first (R52, R75). -/
theorem test_decodeBytes : decodeBytes [0x03, 0x3F, 0x00, 0x00] = .ok (.final 63) ∧
    decodeBytes [0x03, 0x3F, 0x00] = .error .length := by decide

theorem test_decodeTableWord : decodeTableWord 32 0x00000303 = some (.final 3) ∧ decodeTableWord 32 0x00000004 = none := by
  decide

/-! ### Acceptance (V-C1 to V-C13) -/

theorem test_accept_init : (cmdWrite 1 (at' .idle none)).pend = some 1 := by decide

theorem test_accept_final : (cmdWrite 0x00003F03 (at' .absorbing none)).pend = some 0x00003F03 := by decide

theorem test_accept_seq :
    let t := cmdWrite 2 (at' .idle none)
    t.pend = none ∧ t.err = true ∧ t.errCode = .seq ∧ t.errInfo = 2 := by decide

theorem test_accept_busy_first :
    let t := cmdWrite 7 (at' .absorbing (some 2))
    t.pend = some 2 ∧ t.errCode = .busy ∧ t.errInfo = 7 := by decide

theorem test_accept_selfTest : (cmdWrite 1 (at' .selfTest none)).errCode = .busy := by decide

theorem test_accept_faulted : (cmdWrite 1 (at' .cfgFault none)).errCode = .faulted := by decide

theorem test_accept_rsvd : (cmdWrite 0x00004003 (at' .absorbing none)).errCode = .rsvd := by decide

theorem test_accept_opcode : (cmdWrite 0x80000004 (at' .absorbing none)).errCode = .opcode := by decide

/-- A later error only sets ERR_OVF; STATUS reads 0x00001502 (P4). -/
theorem test_second_error :
    let t := cmdWrite 4 (withError .idle .seq 2)
    t.errInfo = 2 ∧ statusWord t = 0x00001502 := by decide

/-! ### Register accesses (V-R1 to V-R14) -/

theorem test_mbuf_write : blockWord (hostAccess (.write .bits32 0x040 0x00636261) (at' .idle none)).mbuf 0 = 0x00636261 ∧
    ((hostAccess (.write .bits32 0x040 0x00636261) (at' .idle none)).mbuf.toList.take 4 = [0x61, 0x62, 0x63, 0x00]) := by
  decide +kernel

theorem test_mbuf_write_busy :
    let t := hostAccess (.write .bits32 0x044 5) (at' .idle (some 0))
    t.errCode = .wbusy ∧ t.errInfo = 0x80002044 ∧ t.mbuf = zeroBlock := by decide

theorem test_write_hash : (hostAccess (.write .bits32 0x084 0) (at' .idle none)).errInfo = 0x80002084 := by decide

theorem test_read_misaligned :
    let t := hostAccess (.read .bits32 0x042) (at' .idle none)
    t.errCode = .bus ∧ t.errInfo = 0x00002042 ∧ t.replies = [0] := by decide

theorem test_write_byte : (hostAccess (.write .bits8 0x041 0) (at' .idle none)).errInfo = 0x80000041 := by decide

theorem test_read_half : (hostAccess (.read .bits16 0x080) (at' .idle none)).errInfo = 0x00001080 := by decide

theorem test_read_unmapped : (hostAccess (.read .bits32 0x200) (at' .idle none)).errInfo = 0x00002200 := by decide

theorem test_read_cmd :
    let t := hostAccess (.read .bits32 0x010) (at' .idle (some 3))
    t.replies = [0] ∧ t.err = false := by decide

theorem test_event_clear :
    let t := hostAccess (.write .bits32 0x008 3) { withError .idle .seq 2 with cmdDone := true, errOvf := true }
    eventWord t = 0 ∧ t.errCode = .none ∧ t.errOvf = false ∧ t.errInfo = 0 := by decide

theorem test_ctrl_irq :
    let t := hostAccess (.write .bits32 0x000 1) { at' .idle none with cmdDone := true }
    t.ieDone = true ∧ t.irq = true ∧ (statusWord t).getLsbD 13 = true := by decide

theorem test_soft_reset :
    let t := hostAccess (.write .bits32 0x000 0x80000003) { withError .absorbing .seq 2 with h := inc, pend := some 2 }
    t.h = zeroBlock ∧ t.pend = none ∧ t.phase = .selfTest ∧ t.err = false ∧ t.ieDone = false ∧ t.ieErr = false := by
  decide

theorem test_config : configWord toyA = 0 ∧ configWord { toyA with intOrder := .le, pad2Order := .p0Only } = 5 := by
  decide

/-! ### Self-test (V-B1, V-B3) -/

theorem toyA_bij8 : bij8 toyA = true := by
  have hl : toyA.sbox.toList = List.ofFn fun x : Fin 256 => BitVec.ofNat 8 (7 * x.val + 3) := Vector.toList_ofFn
  simp only [bij8, List.all_eq_true, List.mem_range, beq_iff_eq, hl]
  intro v hv
  refine List.count_eq_one_of_mem (List.nodup_ofFn.2 fun x y h => ?_) ?_
  · have h := congrArg BitVec.toNat h
    have hx := x.isLt
    have hy := y.isLt
    simp only [BitVec.toNat_ofNat] at h
    apply Fin.ext
    omega
  · refine List.mem_ofFn.2 ⟨⟨183 * (v + 253) % 256, by omega⟩, BitVec.eq_of_toNat_eq ?_⟩
    simp only [BitVec.toNat_ofNat]
    omega

theorem toyA_bij6 : bij6 toyA = true := by decide +kernel

theorem toyA_good : (bij8 toyA && bij6 toyA) = true := by rw [toyA_bij8, toyA_bij6]; rfl

theorem toyBad_bad : bij8 toyBad = false ∧ bij6 toyBad = true := by decide +kernel

theorem test_selfTest_good : step (at' .selfTest none) = .next (at' .idle none) := by
  have h : selfTestEnd (at' .selfTest none) = setPhase .idle (at' .selfTest none) := if_pos toyA_good
  exact congrArg Host.Outcome.next h

theorem test_selfTest_bad :
    let t := stateOf State.reset (step (State.resetOf toyBad))
    statusWord t = 0x00000108 ∧ eventWord t = 2 ∧ t.errInfo = 0x40000001 := by
  have h : step (State.resetOf toyBad) = .next (raiseError .cfg 0x40000001 (setPhase .cfgFault (State.resetOf toyBad))) := by
    show Host.Outcome.next (selfTestEnd _) = _
    rw [selfTestEnd, if_neg (by simp [State.resetOf, toyBad_bad.1]), selfTestInfo]
    simp [State.resetOf, toyBad_bad.1, toyBad_bad.2]
  rw [h]
  decide

/-! ### Datapath -/

theorem test_wordView : wordView inc 0 = 0x0706050403020100 ∧ wordView inc 7 = 0x3f3e3d3c3b3a3938 := by decide +kernel

theorem test_intView : intView .be (lit 0x200) = 512 ∧ intView .le (lit (2 * 256 ^ 62)) = 512 := by decide +kernel

theorem test_layerX : layerX inc inc = zeroBlock ∧ layerX inc ones = lit 0xfffefdfcfbfaf9f8f7f6f5f4f3f2f1f0efeeedecebeae9e8e7e6e5e4e3e2e1e0dfdedddcdbdad9d8d7d6d5d4d3d2d1d0cfcecdcccbcac9c8c7c6c5c4c3c2c1c0 := by
  decide +kernel

theorem test_layerS : layerS toyA inc = lit 0x030a11181f262d343b424950575e656c737a81888f969da4abb2b9c0c7ced5dce3eaf1f8ff060d141b222930373e454c535a61686f767d848b9299a0a7aeb5bc := by
  decide +kernel

theorem test_layerP : layerP toyA inc = lit 0x00081018202830380109111921293139020a121a222a323a030b131b232b333b040c141c242c343c050d151d252d353d060e161e262e363e070f171f272f373f := by
  decide +kernel

/-- P gathers and does not scatter, on a permutation that is not its own inverse: with `PERM[i] = i + 1`, byte `i` of the
result is byte `i + 1` of the block (R85, hand calculation; TOY-A's transpose is its own inverse). -/
theorem test_layerP_gathers :
    (layerP { toyA with perm := Vector.ofFn fun i => i + 1 } inc).toList.take 3 = [1, 2, 3] := by
  decide +kernel

/-- V-L3: bit 63 of word 0 selects A[63]. -/
theorem test_layerL : layerL toyA (lit (0x80 * 256 ^ 56)) = lit (0x40059fd25f6ede8d * 256 ^ 56) := by decide +kernel

/-- V-F2 and V-KS: the second round key is LPSX of the seed and C[0] = INC. -/
theorem test_keys : keysFrom toyA zeroBlock [inc] = [zeroBlock, lit 0xbb55b29c19ad6a61a0cf0fedd760b4ec5b92b5640e7ce974704e901d4863d085f00cd001083fd1356b55dbaec1589836504ff7e3bf8c2a266b182c7d86f175e8] := by
  decide +kernel

/-- V-A2 and V-A3: full carry through 64 bytes. -/
theorem test_add512_carry :
    add512 .be ones (encodeCount .be 1) = zeroBlock ∧ add512 .le ones (encodeCount .le 1) = zeroBlock := by
  decide +kernel

/-- V-A7 and V-A7L: the order of the integer view shows. -/
theorem test_add512_order :
    add512 .be inc ones = lit 0x000102030405060708090a0b0c0d0e0f101112131415161718191a1b1c1d1e1f202122232425262728292a2b2c2d2e2f303132333435363738393a3b3c3d3e3e ∧
    add512 .le inc ones = lit 0xff0002030405060708090a0b0c0d0e0f101112131415161718191a1b1c1d1e1f202122232425262728292a2b2c2d2e2f303132333435363738393a3b3c3d3e3f := by
  decide +kernel

/-- V-N1 and V-N2. -/
theorem test_encodeCount : encodeCount .be 512 = lit 0x200 ∧ encodeCount .le 512 = lit (2 * 256 ^ 62) := by decide +kernel

/-- V-PAD3: 55 bytes of remainder fill one block. -/
theorem test_pad_55 : padBlocks .p0ThenP1 (List.replicate 55 0xAA) = [lit 0xaaaaaaaaaaaaaaaaaaaaaaaaaaaaaaaaaaaaaaaaaaaaaaaaaaaaaaaaaaaaaaaaaaaaaaaaaaaaaaaaaaaaaaaaaaaaaaaaaaaaaaaaaaaaaa80b801000000000000] := by
  decide +kernel

/-- V-PAD4: 56 bytes fill two blocks, taken in the other order under P1_THEN_P0. -/
theorem test_pad_56 : padBlocks .p1ThenP0 (List.replicate 56 0xAA) =
    [lit 0xc001000000000000, lit 0xaaaaaaaaaaaaaaaaaaaaaaaaaaaaaaaaaaaaaaaaaaaaaaaaaaaaaaaaaaaaaaaaaaaaaaaaaaaaaaaaaaaaaaaaaaaaaaaaaaaaaaaaaaaaaaaa8000000000000000] := by
  decide +kernel

/-! ### One step of each command, the first after reset -/

/-- The state after a step that runs the command word `w` placed in the reset state of TOY-A with MBUF = `b`. -/
def afterStep (w : Nat) (b : Block) : Machine.State :=
  let s := State.withFetchWord { State.resetOf toyA with mbuf := b } 32 w
  stateOf s (step s)

/-- V-C13: NOP's completion sets only CMD_DONE. -/
theorem test_step_nop :
    let t := afterStep 0 inc
    t.cmdDone = true ∧ t.pend = none ∧ t.mbuf = inc ∧ t.h = zeroBlock := by decide +kernel

/-- P1: after INIT the phase is ABSORBING, and STATUS reads 0x00000004. -/
theorem test_step_init :
    let t := afterStep 1 inc
    statusWord t = 0x00000004 ∧ eventWord t = 1 := by decide +kernel

/-- V-D5: after one ABSORB of INC, N is ENCODE(512) and SIGMA is INC. -/
theorem test_step_absorb :
    let t := afterStep 2 inc
    t.n = lit 0x200 ∧ t.sigma = inc ∧ t.phase = .absorbing := by decide +kernel

/-- V-D2: FINAL 3 on "abc", with stale bytes after it: N, SIGMA and the phase. -/
theorem test_step_final :
    let t := afterStep 0x303 (lit (0x616263 * 256 ^ 61 + 0x99))
    t.n = lit 0x18 ∧ t.sigma = lit (0x61626380 * 256 ^ 60 + 0x1800000000000000) ∧ statusWord t = 0x00000006 := by
  decide +kernel

/-- The first step from `State.reset` itself runs a placed word. -/
theorem test_step_from_reset :
    (stateOf State.reset (step (State.withFetchWord State.reset 32 1))).phase = .absorbing := by decide

/-! ### The protocol with the interrupt (program P3) -/

/-- INC100, `M[i] = i`. -/
def inc100 : List Byte := (List.range 100).map (BitVec.ofNat 8)

/-- The access of a turn that is one. -/
def accessOf : Turn → Option Access
  | .access a => some a
  | .hardReset => none
  | .core => none

/-- P3's accesses after its first WAIT, up to the first word of LOADBLK. -/
theorem test_P3_start : (((hashIrqTurns inc100 0 false).drop 2).take 6).map accessOf =
    [some (.write .bits32 0x000 0x00000001), some (.write .bits32 0x008 0x00000003), some (.write .bits32 0x010 0x00000001),
      none, some (.write .bits32 0x008 0x00000003), some (.write .bits32 0x040 0x27262524)] := by decide +kernel

/-- P3's accesses from the last word of LOADREM to the first word of READH. -/
theorem test_P3_final : (((hashIrqTurns inc100 0 false).drop 34).take 4).map accessOf =
    [some (.write .bits32 0x060 0x23222120), some (.write .bits32 0x010 0x00002403), none, some (.read .bits32 0x080)] := by
  decide +kernel

/-- P3: with IE_DONE set a completion raises `irq`, and the CLREV after it lowers it. -/
theorem test_P3_irq :
    let s := { at' .idle (some 1) with ieDone := true }
    let t := stateOf s (step s)
    s.irq = false ∧ t.irq = true ∧ statusWord t = 0x00002004 ∧
      (stateOf t (step { t with schedule := [clearEvents] })).irq = false := by decide

/-! ### Witnesses: the hypotheses of each statement are met together

A statement without hypotheses on the state and operands has none here. -/

/-- The invariant of a state of TOY-A outside CFG_FAULT whose pending word, if any, is legal in its phase. -/
theorem inv_at' {phase : Phase} {pend : Option Word32} (hp : phase ≠ .cfgFault)
    (h : ∀ cmd, pend = some cmd → ∃ i, decode cmd = .ok i ∧ legal i phase = true) : Inv (at' phase pend) where
  pending := h
  captureClear := fun _ => ⟨rfl, rfl, rfl⟩
  captureSet := nofun
  captureCfg := nofun
  tablesGood := fun _ => toyA_good
  tablesBad := fun hc => absurd hc hp
  hashClear := fun _ => rfl
  selfTestFresh := fun _ => ⟨rfl, rfl⟩

theorem inv_none {phase : Phase} (hp : phase ≠ .cfgFault) : Inv (at' phase none) := inv_at' hp nofun

theorem inv_some {phase : Phase} {cmd : Word32} {i : Instr} (hp : phase ≠ .cfgFault) (hd : decode cmd = .ok i)
    (hl : legal i phase = true) : Inv (at' phase (some cmd)) :=
  inv_at' hp fun c hc => by cases hc; exact ⟨i, hd, hl⟩

/-- `s` with a schedule. -/
def scheduled (ts : List Turn) (s : Machine.State) : Machine.State := { s with schedule := ts }

theorem witness_DecodeEncodeRoundTrip : WellFormed .nop ∧ WellFormed .init ∧ WellFormed .absorb ∧ WellFormed (.final 0) ∧
    WellFormed (.final 63) := by decide

theorem witness_EncodeDecodeRoundTrip : decode 0x00003F03 = .ok (.final 63) := by decide

theorem witness_DecodePicksTheTableRow :
    (⟨0x03, 0x00000003, 0xFFFFC0FF⟩ : OpcodeRow) ∈ opcodeTable ∧
      OpcodeRow.picks ⟨0x03, 0x00000003, 0xFFFFC0FF⟩ 0x00003F03 = true := by decide

theorem witness_IllegalWordsAreRefused :
    (at' .idle none).phase ≠ .cfgFault ∧ (at' .idle none).busy = false ∧
      (∀ row ∈ opcodeTable, (0x00000004 : Word32) &&& row.mask ≠ row.pattern) ∧
      ∀ row ∈ opcodeTable, (0x00000102 : Word32) &&& row.mask ≠ row.pattern := by decide

theorem witness_CommandPhase : CommandPhase .idle ∧ CommandPhase .absorbing ∧ CommandPhase .done :=
  ⟨.inl rfl, .inr (.inl rfl), .inr (.inr rfl)⟩

/-- Both ends of the range of FINAL's operand, for FinalCompletes. -/
theorem witness_FinalCompletes : (0 < 64 ∧ 0 = 0) ∧ (63 < 64 ∧ 0 < 63) := by decide

theorem witness_CompletionStepCommits :
    (at' .absorbing (some 0x303)).pend = some 0x303 ∧ decode 0x303 = .ok (.final 3) ∧
      legal (.final 3) (at' .absorbing (some 0x303)).phase = true := by decide

theorem witness_CompletionFrame :
    (∃ t, exec .nop (at' .done (some 0)) = .next t) ∧ ∃ t, exec .absorb (at' .absorbing (some 2)) = .next t :=
  ⟨⟨_, rfl⟩, ⟨_, rfl⟩⟩

theorem witness_FinalIgnoresStaleBytes :
    3 < 64 ∧ ∀ k : Fin 64, k.val < 3 → (zeroBlock.set 3 0x99)[k] = (at' .absorbing (some 0x303)).mbuf[k] := by
  decide +kernel

theorem witness_StepRunsThePendingCommand :
    (at' .idle (some 1)).pend = some 1 ∧ decode 1 = .ok .init ∧ (at' .idle (some 1)).schedule = [] ∧
      (scheduled [.core] (at' .idle (some 1))).schedule = .core :: [] := by decide

theorem witness_StepServesTheHostTurn :
    (scheduled [rd 0x004] (at' .idle none)).schedule = .access (.read .bits32 0x004) :: [] ∧
      (scheduled [.hardReset] (at' .idle none)).schedule = .hardReset :: [] := by decide

theorem witness_PlacedWordRunsNext : decodeTableWord 32 0x303 = some (.final 3) ∧ (at' .idle none).schedule = [] ∧
    Inv (at' .idle none) ∧ CommandPhase (at' .idle none).phase :=
  ⟨by decide, rfl, inv_none nofun, .inl rfl⟩

/-- A wrong width, a misaligned offset, and the ends of the two unmapped ranges, for RegisterReads and BusErrors. -/
theorem witness_Misdirected : Misdirected .bits16 0x080 ∧ Misdirected .bits32 0x042 ∧ Misdirected .bits32 0x018 ∧
    Misdirected .bits32 0x03C ∧ Misdirected .bits32 0x140 ∧ Misdirected .bits32 0xFFC := by
  refine ⟨.inl nofun, .inr (.inl (by decide)), .inr (.inr (.inl (by decide))), .inr (.inr (.inl (by decide))),
    .inr (.inr (.inr (by decide))), .inr (.inr (.inr (by decide)))⟩

/-- The ends of the ranges of read-only offsets, for BusErrors. -/
theorem witness_ReadOnly : ReadOnly 0x004 ∧ ReadOnly 0x00C ∧ ReadOnly 0x014 ∧ ReadOnly 0x080 ∧ ReadOnly 0x13C :=
  ⟨.inl rfl, .inr (.inl rfl), .inr (.inr (.inl rfl)), .inr (.inr (.inr (by decide))), .inr (.inr (.inr (by decide)))⟩

/-- A resetting and a plain CTRL value, for CtrlWrite, ResetProcedure and SoftReset. -/
theorem witness_CtrlWrite : (0x80000003 : Word32).getLsbD 31 = true ∧ (0x00000003 : Word32).getLsbD 31 = false := by decide

/-- BUSY = 1, by a pending command and by the self-test, and BUSY = 0, for MbufWrite. -/
theorem witness_MbufWrite :
    (at' .idle (some 0)).busy = true ∧ (at' .selfTest none).busy = true ∧ (at' .cfgFault none).busy = false := by decide

/-- Without and with an error captured, for ErrorCapture and StatusFields. -/
theorem witness_ErrorCapture : (at' .idle none).err = false ∧ (withError .idle .seq 2).err = true := by decide

/-- A state with an error captured, and a turn that is neither a reset nor an error clear. -/
theorem witness_ErrorCaptureIsSticky :
    let s := scheduled [wr 0x010 4] (withError .idle .seq 2)
    (∃ t, step s = .next t) ∧ s.err = true ∧ s.nextTurn ≠ .hardReset ∧
      ∀ a, s.nextTurn = .access a → ¬SoftReset a ∧ ¬ErrorClear a := by
  refine ⟨⟨_, rfl⟩, rfl, nofun, fun a ha => ?_⟩
  cases ha
  exact ⟨fun ⟨_, h, _⟩ => absurd h (by simp), fun ⟨_, h, _⟩ => absurd h (by simp)⟩

theorem witness_ErrorsArePrecise :
    ((at' .idle none).err = false ∧ (cmdWrite 2 (at' .idle none)).err = true) ∧
      (withError .idle .seq 2).err = true ∧ (withError .idle .seq 2).errOvf = false ∧
      (cmdWrite 4 (withError .idle .seq 2)).errOvf = true := by decide

/-- A refused command word with the error capture clear, for ErrorInfoFormats. -/
theorem witness_ErrorInfoFormats : (at' .idle none).err = false ∧ (cmdWrite 2 (at' .idle none)).err = true := by decide

/-- An instance that passes the self-test and one that fails it, both in SELFTEST with nothing pending. -/
theorem witness_SelfTestEnd :
    ((at' .selfTest none).phase = .selfTest ∧ (at' .selfTest none).pend = none ∧
      bij8 (at' .selfTest none).params = true ∧ bij6 (at' .selfTest none).params = true) ∧
    (State.resetOf toyBad).phase = .selfTest ∧ (State.resetOf toyBad).pend = none ∧
      ¬(bij8 (State.resetOf toyBad).params = true ∧ bij6 (State.resetOf toyBad).params = true) :=
  ⟨⟨rfl, rfl, toyA_bij8, toyA_bij6⟩, rfl, rfl, fun h => absurd h.1 (toyBad_bad.1 ▸ nofun)⟩

/-- For StepKeepsInvariant, StepNeverStops and the third clause of PhaseMachine: a state with the invariant and a step. -/
theorem witness_StepKeepsInvariant :
    Inv (at' .absorbing (some 2)) ∧ ∃ t, step (at' .absorbing (some 2)) = .next t :=
  ⟨inv_some (i := .absorb) nofun (by decide) rfl, ⟨_, rfl⟩⟩

theorem inv_scheduled {s : Machine.State} (ts : List Turn) (h : Inv s) : Inv (scheduled ts s) :=
  ⟨h.1, h.2, h.3, h.4, h.5, h.6, h.7, h.8⟩

/-- The hardware reset, a soft reset, an access that is none, and the core's turn in SELFTEST. -/
theorem witness_PhaseMachine_turns :
    Inv (scheduled [.hardReset] (at' .done none)) ∧
      (scheduled [.hardReset] (at' .done none)).nextTurn = .hardReset ∧
    (Inv (scheduled [wr 0x000 0x80000000] (at' .done none)) ∧
      (scheduled [wr 0x000 0x80000000] (at' .done none)).nextTurn = .access (.write .bits32 0x000 0x80000000) ∧
      SoftReset (.write .bits32 0x000 0x80000000)) ∧
    (Inv (scheduled [rd 0x004] (at' .done none)) ∧
      (scheduled [rd 0x004] (at' .done none)).nextTurn = .access (.read .bits32 0x004) ∧
      ¬SoftReset (.read .bits32 0x004)) ∧
    Inv (at' .selfTest none) ∧ (at' .selfTest none).nextTurn = .core ∧ (at' .selfTest none).phase = .selfTest :=
  ⟨inv_scheduled _ (inv_none nofun), rfl, ⟨inv_scheduled _ (inv_none nofun), rfl, ⟨_, rfl, by decide⟩⟩,
    ⟨inv_scheduled _ (inv_none nofun), rfl, fun ⟨_, h, _⟩ => by cases h⟩, inv_none nofun, rfl, rfl⟩

/-- Each command pending, with the invariant, and nothing pending outside SELFTEST. -/
theorem witness_PhaseMachine_commands :
    (Inv (at' .done (some (encode .init))) ∧ Inv (at' .absorbing (some (encode .absorb))) ∧
      Inv (at' .absorbing (some (encode (.final 63)))) ∧ Inv (at' .idle (some (encode .nop))) ∧ 63 < 64) ∧
    Inv (at' .idle none) ∧ (at' .idle none).phase ≠ .selfTest :=
  ⟨⟨inv_some (i := .init) nofun (by decide) rfl, inv_some (i := .absorb) nofun (by decide) rfl,
    inv_some (i := .final 63) nofun (by decide) rfl, inv_some (i := .nop) nofun (by decide) rfl, by decide⟩,
    inv_none nofun, nofun⟩

/-- A completion that changes the hash state (N), for HashStateChangesOnlyAtCommit. -/
theorem witness_HashStateChangesOnlyAtCommit :
    let s := at' .absorbing (some 2)
    ∃ t, step s = .next t ∧ s.chain ≠ t.chain := by
  refine ⟨_, rfl, fun h => ?_⟩
  have h := congrArg Chain.n h
  revert h
  show ¬zeroBlock = add512 .be zeroBlock (encodeCount .be 512)
  decide +kernel

theorem witness_FaultedInstanceNeverHashes :
    ¬(bij8 toyBad = true ∧ bij6 toyBad = true) ∧
      ∃ t, Host.Core.run core 2 { State.resetOf toyBad with schedule := [wr 0x010 1, .core] } = .next t :=
  ⟨fun h => absurd h.1 (toyBad_bad.1 ▸ nofun), ⟨_, rfl⟩⟩

/-- A pending ABSORB while the host polls STATUS and tries to write MBUF, with the core next or the schedule at its end. -/
theorem witness_PendingResultIsFixed :
    let accesses : List Access := [.read .bits32 0x004, .write .bits32 0x040 5]
    let s := scheduled (accesses.map Turn.access ++ [.core]) (at' .absorbing (some 2))
    s.pend = some 2 ∧ decode 2 = .ok .absorb ∧ s.schedule = accesses.map Turn.access ++ [.core] ∧
      (∃ ts, [Turn.core] = .core :: ts) ∧ ∀ a ∈ accesses, ¬SoftReset a := by
  refine ⟨rfl, by decide, rfl, ⟨[], rfl⟩, fun a ha => ?_⟩
  simp only [List.mem_cons, List.not_mem_nil, or_false] at ha
  rcases ha with rfl | rfl <;> exact fun ⟨_, h, _⟩ => absurd h (by simp)

theorem witness_ParametersNeverChange : ∃ t, step (at' .idle (some 1)) = .next t := ⟨_, rfl⟩

theorem witness_TablesAreInvisibleToAccesses :
    toy0.intOrder = (at' .idle none).params.intOrder ∧ toy0.pad2Order = (at' .idle none).params.pad2Order := ⟨rfl, rfl⟩

theorem witness_WindowPlacement : offsetAt (Config.windowBase + 0) = some 0x000 ∧
    offsetAt (Config.windowBase + 4095) = some 0xFFF := by
  simp only [offsetAt]
  rw [if_pos (by omega), if_pos (by omega), Nat.add_sub_cancel_left, Nat.add_sub_cancel_left]
  decide

/-- The largest value, for IntegerView. -/
theorem witness_IntegerView : 2 ^ 512 - 1 < 2 ^ 512 := by decide +kernel

theorem witness_PermutationLayer : bij6 toyA = true := toyA_bij6

theorem witness_CounterEncoding : 2 ^ 16 - 1 < 2 ^ 16 := by decide

/-- The boundary lengths of PaddingLayout and PaddedBlocks. -/
theorem witness_PaddingLayout : ∀ r ∈ [1, 55, 56, 63],
    1 ≤ (List.replicate r (0xAA : Byte)).length ∧ (List.replicate r (0xAA : Byte)).length ≤ 63 := by decide

theorem witness_IdentityTablesDegenerate : Toy0 toy0 := by
  refine ⟨fun x => ?_, fun i => ?_, fun j => ?_, fun i => ?_⟩ <;> simp [toy0]

/-- The last byte of the only full block of a message of 65 bytes, for TailFirstBlocks. -/
theorem witness_TailFirstBlocks : 0 < (List.replicate 65 (0xAA : Byte)).length / 64 ∧ 63 < 64 := by decide

/-- A short remainder, and a long one under the two settings that compress two blocks, for FinalCounter. -/
theorem witness_FinalCounter : (List.replicate 64 (0xAA : Byte)).length % 64 < 56 ∧
    toyA.pad2Order ≠ .p0Only ∧ Pad2Order.p1ThenP0 ≠ .p0Only := by decide

/-- A state before a hardware reset, for ResetValues. -/
theorem witness_ResetValues : ∃ t, runTurn .hardReset (withError .done .seq 2) = .next t := ⟨_, rfl⟩

/-- Each case of a CMD write, and a word with the same OPC outside its row, for Issued (in NopCompletes, InitCompletes,
AbsorbCompletes and FinalCompletes). -/
theorem witness_Issued :
    (at' .cfgFault none).phase = .cfgFault ∧
    ((at' .selfTest none).phase ≠ .cfgFault ∧ (at' .selfTest none).busy = true) ∧
    ((at' .absorbing none).phase ≠ .cfgFault ∧ (at' .absorbing none).busy = false ∧ (at' .absorbing none).phase = .absorbing) ∧
    ((at' .idle none).phase ≠ .cfgFault ∧ (at' .idle none).busy = false ∧ ¬(at' .idle none).phase = .absorbing) ∧
    ((0x00000102 : Word32).extractLsb' 0 8 = 2 ∧ (0x00000102 : Word32).extractLsb' 8 6 ≠ 0) ∧
    ((0x00004003 : Word32).extractLsb' 0 8 = 3 ∧ (0x00004003 : Word32).extractLsb' 14 18 ≠ 0) := by decide

/-- A state with the invariant in each of the three phases and the protocol's turns for "abc" ahead of it. -/
theorem witness_ProtocolComputesDigest : ∀ phase, CommandPhase phase →
    let s := scheduled (hashTurns [0x61, 0x62, 0x63] (fun _ => 1) ++ []) (at' phase none)
    Inv s ∧ CommandPhase s.phase ∧ s.schedule = hashTurns [0x61, 0x62, 0x63] (fun _ => 1) ++ [] := by
  intro phase h
  refine ⟨inv_scheduled _ (inv_none ?_), h, rfl⟩
  rcases h with rfl | rfl | rfl <;> exact nofun

/-- As the last, for the protocol with the interrupt, and the first turn at which the host waits for `irq`. -/
theorem witness_InterruptProtocolComputesDigest : ∀ phase, CommandPhase phase → ∀ ieErr,
    let s := scheduled (hashIrqTurns [0x61, 0x62, 0x63] 1 ieErr ++ []) (at' phase none)
    (Inv s ∧ CommandPhase s.phase ∧ s.schedule = hashIrqTurns [0x61, 0x62, 0x63] 1 ieErr ++ []) ∧
      (irqPrelude 1 ieErr).length ≤ 6 ∧ (hashIrqTurns [0x61, 0x62, 0x63] 1 ieErr)[6]? = some .core := by
  intro phase h ieErr
  refine ⟨⟨inv_scheduled _ (inv_none ?_), h, rfl⟩, by cases ieErr <;> decide, rfl⟩
  rcases h with rfl | rfl | rfl <;> exact nofun

end Sys2Proof.Tests
end

section
/-! PROOFS. The ROM tables and the order parameters under the operations of the machine and under a step
(spec/00_scope.md R8, spec/10_state.md R27 to R30, R37). -/

namespace Sys2Proof.Machine

@[simp] theorem writeEventDone_params (v : Word32) (s : State) : (writeEventDone v s).params = s.params := by
  unfold writeEventDone
  split
  · exact clearDone_params s
  · rfl

@[simp] theorem selfTestEnd_params (s : State) : (selfTestEnd s).params = s.params := by
  unfold selfTestEnd
  split
  · exact setPhase_params _ s
  · rw [raiseError_params, setPhase_params]

/-- No effect of a host access is a write to the tables or to the order parameters (R8, R37). -/
theorem AccessEffect.params_eq {s t : State} {a : Access} (h : AccessEffect s a t) : t.params = s.params := by
  cases h with
  | served => exact reply_params _ s
  | readRefused => rw [reply_params, raiseError_params]
  | writeRefused => exact raiseError_params _ _ s
  | softReset => exact resetCore_params s
  | enables => exact setEnables_params _ _ s
  | eventKept => exact writeEventDone_params _ s
  | eventCleared => rw [clearError_params, writeEventDone_params]
  | stored => exact setMbufWord_params _ _ s
  | accepted => exact setPending_params _ s

@[simp] theorem hostAccess_params (a : Access) (s : State) : (hostAccess a s).params = s.params :=
  (hostAccess_effect a s).params_eq

/-- A core step commits a command, ends the self-test or does nothing; none of these writes the parameters (R121, R191). -/
theorem coreStep_params {s t : State} (h : coreStep s = .next t) : t.params = s.params := by
  obtain ⟨_, _, -, -, rfl⟩ | ⟨-, -, rfl⟩ | ⟨-, -, rfl⟩ := coreStep_cases h
  · exact commit_params _ _ s
  · exact selfTestEnd_params s
  · rfl

theorem step_params {s t : State} (h : step s = .next t) : t.params = s.params := by
  obtain ⟨a, -, rfl⟩ | ⟨-, rfl⟩ | ⟨-, hc⟩ := step_cases h
  · rw [hostAccess_params, setSchedule_params]
  · rw [resetCore_params, setSchedule_params]
  · rw [coreStep_params hc, setSchedule_params]

/-- Settles O37: a step is a host access, a hardware reset or a core step, and each keeps the parameters. -/
theorem parametersNeverChange : Obligations.ParametersNeverChange := fun _ _ => step_params

end Sys2Proof.Machine
end

section
/-! PROOFS. The fields of the STATUS word: each stands at its own bits, and a read of some bits sees the field placed
there and no other (spec/10_state.md R31, R38, spec/60_exceptions.md R162). -/

namespace Sys2Proof.Machine

/-! ### A field in a register word -/

/-- The register word with the field `x` at bit `k` and 0 elsewhere. -/
def place {w : Nat} (k : Nat) (x : BitVec w) : Word32 := x.setWidth 32 <<< k

theorem bit_eq_place (b : Bool) : bit b = place 0 (BitVec.ofBool b) := by cases b <;> rfl

theorem bit_shiftLeft_eq_place (b : Bool) (k : Nat) : bit b <<< k = place k (BitVec.ofBool b) := by
  cases b <;> rfl

theorem getLsbD_place {w : Nat} (k : Nat) (x : BitVec w) (j : Nat) :
    (place k x).getLsbD j = (decide (j < 32) && decide (k ≤ j) && x.getLsbD (j - k)) := by
  rw [place, BitVec.getLsbD_shiftLeft, BitVec.getLsbD_setWidth, ← decide_not]
  by_cases hj : j < 32
  · simp [hj, show j - k < 32 by omega]
  · simp [hj]

theorem extractLsb'_place_same {w : Nat} (k : Nat) (x : BitVec w) (h : k + w ≤ 32) :
    (place k x).extractLsb' k w = x := by
  ext i hi
  rw [BitVec.getElem_extractLsb', getLsbD_place, ← BitVec.getLsbD_eq_getElem hi]
  simp [show k + i < 32 by omega]

theorem extractLsb'_place_disjoint {w : Nat} (k : Nat) (x : BitVec w) (j n : Nat) (h : j + n ≤ k ∨ k + w ≤ j) :
    (place k x).extractLsb' j n = 0 := by
  ext i hi
  rw [BitVec.getElem_extractLsb', getLsbD_place]
  obtain h | h := h
  · simp [show ¬k ≤ j + i by omega]
  · simp [BitVec.getLsbD_of_ge x (j + i - k) (by omega)]

/-! ### STATUS -/

/-- STATUS is its five fields, each at its own bits (R31). -/
theorem statusWord_eq_fields (s : State) :
    statusWord s = place 0 (BitVec.ofBool s.busy) ||| place 1 (phaseCode s.phase) ||| place 8 (errorNumber s.errCode)
      ||| place 12 (BitVec.ofBool s.errOvf) ||| place 13 (BitVec.ofBool s.irq) := by
  rw [statusWord, bit_eq_place s.busy, bit_shiftLeft_eq_place, bit_shiftLeft_eq_place]
  rfl

theorem statusWord_busy (s : State) : (statusWord s).getLsbD 0 = s.busy := by
  simp only [statusWord_eq_fields, BitVec.getLsbD_or, getLsbD_place]
  simp

theorem statusWord_errOvf (s : State) : (statusWord s).getLsbD 12 = s.errOvf := by
  simp only [statusWord_eq_fields, BitVec.getLsbD_or, getLsbD_place]
  simp

theorem statusWord_irq (s : State) : (statusWord s).getLsbD 13 = s.irq := by
  simp only [statusWord_eq_fields, BitVec.getLsbD_or, getLsbD_place]
  simp

theorem statusWord_phase (s : State) : (statusWord s).extractLsb' 1 3 = phaseCode s.phase := by
  simp [statusWord_eq_fields, BitVec.extractLsb'_or, extractLsb'_place_same, extractLsb'_place_disjoint]

theorem statusWord_errCode (s : State) : (statusWord s).extractLsb' 8 4 = errorNumber s.errCode := by
  simp [statusWord_eq_fields, BitVec.extractLsb'_or, extractLsb'_place_same, extractLsb'_place_disjoint]

theorem statusWord_reserved_low (s : State) : (statusWord s).extractLsb' 4 4 = 0 := by
  simp [statusWord_eq_fields, BitVec.extractLsb'_or, extractLsb'_place_disjoint]

theorem statusWord_reserved_high (s : State) : (statusWord s).extractLsb' 14 18 = 0 := by
  simp [statusWord_eq_fields, BitVec.extractLsb'_or, extractLsb'_place_disjoint]

theorem phaseCode_le (p : Phase) : (phaseCode p).toNat ≤ 4 := by cases p <;> decide

theorem errorNumber_le (e : ErrorCode) : (errorNumber e).toNat ≤ 8 := by cases e <;> decide

/-- The first error shows its own code in STATUS (R31, R160). -/
theorem statusWord_raiseError_first {code : ErrorCode} {info : Word32} {s : State} (h : s.err = false) :
    (statusWord (raiseError code info s)).extractLsb' 8 4 = errorNumber code := by
  rw [statusWord_errCode, raiseError_first h]

/-- A later error leaves the code of the first in STATUS and shows ERR_OVF (R31, R160). -/
theorem statusWord_raiseError_later {code : ErrorCode} {info : Word32} {s : State} (h : s.err = true) :
    (statusWord (raiseError code info s)).extractLsb' 8 4 = errorNumber s.errCode ∧
      (statusWord (raiseError code info s)).getLsbD 12 = true := by
  rw [statusWord_errCode, statusWord_errOvf, raiseError_later h]
  exact ⟨rfl, rfl⟩

/-- Settles O25: the codes are those of the two tables, and every field of STATUS is read back from the bits it is
placed at. -/
theorem statusFields : Obligations.StatusFields := by
  refine ⟨⟨rfl, rfl, rfl, rfl, rfl⟩, ⟨rfl, rfl, rfl, rfl, rfl, rfl, rfl, rfl, rfl⟩, fun s code info => ?_, fun s => ?_, ?_⟩
  · exact ⟨statusWord_raiseError_first, statusWord_raiseError_later⟩
  · exact ⟨statusWord_busy s, statusWord_phase s, phaseCode_le s.phase, statusWord_reserved_low s, statusWord_errCode s,
      errorNumber_le s.errCode, statusWord_errOvf s, statusWord_irq s, statusWord_irq s, statusWord_reserved_high s⟩
  · rfl

end Sys2Proof.Machine
end

section
/-! PROOFS. The values of every piece of state after a reset (spec/10_state.md R44, spec/70_reset_and_hazards.md R190). -/

namespace Sys2Proof.Machine

/-- A CTRL write with bit 31 set is the soft reset (R130). -/
theorem hostAccess_softReset {v : Word32} (hv : v.getLsbD 31 = true) (s : State) :
    hostAccess (.write .bits32 0x000 v) s = resetCore s := by
  rw [hostAccess_ctrl, writeCtrl, if_pos hv]

theorem runTurn_hardReset_iff {s t : State} : runTurn .hardReset s = .next t ↔ t = resetCore s :=
  ⟨fun h => by cases h; rfl, fun h => h ▸ rfl⟩

/-- The state right after reset is its own reset. -/
theorem resetCore_reset : resetCore State.reset = State.reset := rfl

@[simp] theorem busy_resetCore (s : State) : (resetCore s).busy = true := by simp [State.busy]

@[simp] theorem irq_resetCore (s : State) : (resetCore s).irq = false := irq_cleared rfl rfl

/-- Settles O29: the hardware reset, the soft reset and the state right after reset are all `resetCore` of some state. -/
theorem resetValues : Obligations.ResetValues := by
  constructor
  · intro t ht
    have hreset : ∃ s, t = resetCore s := by
      obtain rfl | ⟨s, hs⟩ | ⟨s, v, hv, rfl⟩ := ht
      · exact ⟨State.reset, resetCore_reset.symm⟩
      · exact ⟨s, runTurn_hardReset_iff.mp hs⟩
      · exact ⟨s, hostAccess_softReset hv s⟩
    obtain ⟨s, rfl⟩ := hreset
    simp
  · intro s t ht
    have hreset : t = resetCore s := by
      obtain hs | ⟨v, hv, rfl⟩ := ht
      · exact runTurn_hardReset_iff.mp hs
      · exact hostAccess_softReset hv s
    subst hreset
    exact ⟨resetCore_params s, congrArg configWord (resetCore_params s)⟩

end Sys2Proof.Machine
end

section
/-! PROOFS. What host accesses leave unchanged: the hash state unless the access resets, and, while BUSY = 1, everything
a pending command computes from (spec/10_state.md R36, R41, spec/20_memory.md R66, spec/70_reset_and_hazards.md R199). -/

namespace Sys2Proof.Machine

@[simp] theorem writeEventDone_chain (v : Word32) (s : State) : (writeEventDone v s).chain = s.chain := by
  unfold writeEventDone
  split <;> rfl

/-- An access is a soft reset, or it leaves the hash state (R36). -/
theorem AccessEffect.softReset_or_chain {s t : State} {a : Access} (h : AccessEffect s a t) :
    (SoftReset a ∧ t = resetCore s) ∨ t.chain = s.chain := by
  cases h with
  | softReset size off v h hv =>
    obtain ⟨rfl, rfl⟩ := target_eq_ctrl h
    exact .inl ⟨⟨v, rfl, hv⟩, rfl⟩
  | eventKept => exact .inr (writeEventDone_chain _ s)
  | eventCleared => exact .inr (writeEventDone_chain _ s)
  | readRefused => exact .inr (chain_raiseError _ _ s)
  | writeRefused => exact .inr (chain_raiseError _ _ s)
  | served => exact .inr rfl
  | enables => exact .inr rfl
  | stored => exact .inr rfl
  | accepted => exact .inr rfl

theorem selfTestEnd_chain (s : State) : (selfTestEnd s).chain = s.chain := by
  unfold selfTestEnd
  split
  · rfl
  · exact chain_raiseError _ _ _

/-- A core step that changes the hash state completes a pending command other than NOP (R36, R122). -/
theorem coreStep_chain_changed {s t : State} (h : coreStep s = .next t) (hc : s.chain ≠ t.chain) :
    ∃ cmd i, s.pend = some cmd ∧ decode cmd = .ok i ∧ i ≠ .nop ∧ t.pend = none ∧ t.cmdDone = true := by
  obtain ⟨cmd, i, hp, hd, rfl⟩ | ⟨-, -, rfl⟩ | ⟨-, -, rfl⟩ := coreStep_cases h
  · refine ⟨cmd, i, hp, hd, ?_, rfl, rfl⟩
    rintro rfl
    exact hc rfl
  · exact absurd (selfTestEnd_chain s).symm hc
  · exact absurd rfl hc

/-- Settles O34: an access that is no soft reset keeps the hash state, a reset clears it, and a core step changes it only
by completing a command. -/
theorem hashStateChangesOnlyAtCommit : Obligations.HashStateChangesOnlyAtCommit := by
  intro s t h hc
  obtain ⟨a, hn, rfl⟩ | ⟨hn, rfl⟩ | ⟨hn, hcore⟩ := step_cases h
  · obtain ⟨hs, ht⟩ | hkeep := (hostAccess_effect a (setSchedule s.schedule.tail s)).softReset_or_chain
    · rw [ht]
      exact .inr ⟨.inr ⟨a, hn, hs⟩, rfl, rfl, rfl⟩
    · exact absurd hkeep.symm hc
  · exact .inr ⟨.inl hn, rfl, rfl, rfl⟩
  · have hdone := coreStep_chain_changed hcore hc
    exact .inl ⟨hn, hdone⟩

/-! ### A pending command -/

/-- `t` agrees with `s` on everything a completion step computes from: the parameters, the hash state, MBUF, PHASE, PEND. -/
structure SameCommand (s t : State) : Prop where
  params : t.params = s.params
  chain : t.chain = s.chain
  mbuf : t.mbuf = s.mbuf
  phase : t.phase = s.phase
  pend : t.pend = s.pend

theorem SameCommand.refl (s : State) : SameCommand s s := ⟨rfl, rfl, rfl, rfl, rfl⟩

theorem SameCommand.trans {s t u : State} (h : SameCommand s t) (k : SameCommand t u) : SameCommand s u where
  params := k.params.trans h.params
  chain := k.chain.trans h.chain
  mbuf := k.mbuf.trans h.mbuf
  phase := k.phase.trans h.phase
  pend := k.pend.trans h.pend

theorem sameCommand_setSchedule (ts : List Turn) (s : State) : SameCommand s (setSchedule ts s) :=
  ⟨rfl, rfl, rfl, rfl, rfl⟩

theorem sameCommand_reply (v : Word32) (s : State) : SameCommand s (reply v s) := ⟨rfl, rfl, rfl, rfl, rfl⟩

theorem sameCommand_clearError (s : State) : SameCommand s (clearError s) := ⟨rfl, rfl, rfl, rfl, rfl⟩

theorem sameCommand_raiseError (code : ErrorCode) (info : Word32) (s : State) :
    SameCommand s (raiseError code info s) := by
  constructor <;> simp

theorem sameCommand_writeEventDone (v : Word32) (s : State) : SameCommand s (writeEventDone v s) := by
  unfold writeEventDone
  split <;> exact ⟨rfl, rfl, rfl, rfl, rfl⟩

/-- While BUSY = 1, an access that is no soft reset changes nothing the pending command computes from: the writes that
would are refused (R41, R66, R199). -/
theorem AccessEffect.sameCommand {s t : State} {a : Access} (h : AccessEffect s a t) (hb : s.busy = true)
    (hr : ¬SoftReset a) : SameCommand s t := by
  cases h with
  | served => exact sameCommand_reply _ s
  | readRefused => exact (sameCommand_raiseError _ _ s).trans (sameCommand_reply _ _)
  | writeRefused => exact sameCommand_raiseError _ _ s
  | softReset size off v h hv =>
    obtain ⟨rfl, rfl⟩ := target_eq_ctrl h
    exact absurd ⟨v, rfl, hv⟩ hr
  | enables => exact ⟨rfl, rfl, rfl, rfl, rfl⟩
  | eventKept => exact sameCommand_writeEventDone _ s
  | eventCleared => exact (sameCommand_writeEventDone _ s).trans (sameCommand_clearError _)
  | stored _ _ _ _ _ hidle => rw [hb] at hidle; cases hidle
  | accepted _ _ _ _ _ _ hidle => rw [hb] at hidle; cases hidle

theorem hostAccess_sameCommand {s : State} {cmd : Word32} {a : Access} (hp : s.pend = some cmd) (hr : ¬SoftReset a) :
    SameCommand s (hostAccess a s) :=
  (hostAccess_effect a s).sameCommand ((busy_iff s).mpr (.inl (Option.isSome_of_mem hp))) hr

theorem SameCommand.chainAfter_eq {s t : State} (h : SameCommand s t) (i : Instr) : chainAfter i t = chainAfter i s := by
  cases i <;> simp only [chainAfter, h.params, h.chain, h.mbuf]

@[simp] theorem writeEventDone_schedule (v : Word32) (s : State) : (writeEventDone v s).schedule = s.schedule := by
  unfold writeEventDone
  split <;> rfl

/-- No access touches the turns still to come. -/
theorem AccessEffect.schedule_eq {s t : State} {a : Access} (h : AccessEffect s a t) : t.schedule = s.schedule := by
  cases h with
  | served => exact reply_schedule _ s
  | readRefused => rw [reply_schedule, raiseError_schedule]
  | writeRefused => exact raiseError_schedule _ _ s
  | softReset => exact resetCore_schedule s
  | enables => exact setEnables_schedule _ _ s
  | eventKept => exact writeEventDone_schedule _ s
  | eventCleared => rw [clearError_schedule, writeEventDone_schedule]
  | stored => exact setMbufWord_schedule _ _ s
  | accepted => exact setPending_schedule _ s

@[simp] theorem hostAccess_schedule (a : Access) (s : State) : (hostAccess a s).schedule = s.schedule :=
  (hostAccess_effect a s).schedule_eq

/-- With an access in front of the schedule, a step is that access (R63). -/
theorem step_access {s : State} {a : Access} {ts : List Turn} (h : s.schedule = .access a :: ts) :
    step s = .next (hostAccess a (setSchedule ts s)) := by
  rw [step, h]
  rfl

/-- With a command pending and the core's turn next, a step is the completion (R121). -/
theorem step_core_pending {s : State} {cmd : Word32} {i : Instr} (hn : s.nextTurn = .core) (hp : s.pend = some cmd)
    (hd : decode cmd = .ok i) : step s = exec i (setSchedule s.schedule.tail s) := by
  rw [step_eq, hn]
  exact coreStep_pending hp hd

/-- A run of accesses, none a soft reset, leaves a pending command as it was accepted (R41, R66, R199). -/
theorem run_accesses_sameCommand {cmd : Word32} {rest : List Turn} (accesses : List Access) {s : State}
    (hp : s.pend = some cmd) (hs : s.schedule = accesses.map Turn.access ++ rest) (hr : ∀ a ∈ accesses, ¬SoftReset a) :
    ∃ u : State, Host.Core.run core accesses.length s = .next u ∧ SameCommand s u ∧ u.schedule = rest := by
  induction accesses generalizing s with
  | nil => exact ⟨s, run_zero s, .refl s, hs⟩
  | cons a as ih =>
    have hsame : SameCommand s (hostAccess a (setSchedule (as.map Turn.access ++ rest) s)) :=
      (sameCommand_setSchedule _ s).trans (hostAccess_sameCommand hp (hr a List.mem_cons_self))
    obtain ⟨u, hu, hsu, hus⟩ := ih (hsame.pend.trans hp) (hostAccess_schedule a _) fun b hb =>
      hr b (List.mem_cons_of_mem a hb)
    exact ⟨u, (run_succ as.length (step_access hs)).trans hu, hsame.trans hsu, hus⟩

/-- Settles O36: the accesses leave all that the completion computes from, so it commits what it would have committed at
once. -/
theorem pendingResultIsFixed : Obligations.PendingResultIsFixed := by
  intro s cmd i accesses rest hp hd hs hrest hr
  obtain ⟨u, hu, hsame, hus⟩ := run_accesses_sameCommand accesses hp hs hr
  have hnext : u.nextTurn = .core := by
    rw [State.nextTurn, hus]
    obtain rfl | ⟨ts, rfl⟩ := hrest <;> rfl
  have hstep : step u = exec i (setSchedule rest.tail u) :=
    hus ▸ step_core_pending hnext (hsame.pend.trans hp) hd
  have hdone := hsame.trans (sameCommand_setSchedule rest.tail u)
  rw [exec_eq, hdone.chainAfter_eq, hdone.phase] at hstep
  refine ⟨commit (chainAfter i s) (phaseAfter i s.phase) (setSchedule rest.tail u), _, ?_, exec_eq i s,
    rfl, rfl, rfl, rfl, hsame.mbuf, rfl, rfl, rfl⟩
  rw [run_add accesses.length 1 hu, run_succ 0 hstep, run_zero]

end Sys2Proof.Machine
end

section
/-! PROOFS. An access does not see the ROM tables: it commutes with replacing them, where the order parameters that CONFIG
shows are the same (spec/10_state.md R27 to R30, R37). -/

namespace Sys2Proof.Machine

/-- The same state with other tables and order parameters. -/
def State.withParams (p : Params) (s : State) : State := { s with params := p }

@[simp] theorem withParams_busy (p : Params) (s : State) : (s.withParams p).busy = s.busy := rfl
@[simp] theorem withParams_phase (p : Params) (s : State) : (s.withParams p).phase = s.phase := rfl

theorem raiseError_withParams (code : ErrorCode) (info : Word32) (p : Params) (s : State) :
    raiseError code info (s.withParams p) = (raiseError code info s).withParams p := by
  rw [raiseError_eq, raiseError_eq]
  rfl

/-- CONFIG shows the order parameters only (R37). -/
theorem configWord_congr {p q : Params} (hi : p.intOrder = q.intOrder) (ho : p.pad2Order = q.pad2Order) :
    configWord p = configWord q := by
  rw [configWord, configWord, hi, ho]

/-- The only register that depends on the parameters is CONFIG (R37, R128). -/
theorem readReg_withParams {p : Params} {s : State} (hi : p.intOrder = s.params.intOrder)
    (ho : p.pad2Order = s.params.pad2Order) (r : Reg) : readReg r (s.withParams p) = readReg r s := by
  cases r with
  | config => exact configWord_congr hi ho
  | _ => rfl

theorem busRead_withParams {p : Params} {s : State} (hi : p.intOrder = s.params.intOrder)
    (ho : p.pad2Order = s.params.pad2Order) (size : AccessSize) (off : Offset) :
    busRead size off (s.withParams p) = (busRead size off s).withParams p := by
  unfold busRead
  cases target size off with
  | none =>
    simp only [raiseError_withParams]
    rfl
  | some r =>
    simp only [readReg_withParams hi ho]
    rfl

theorem acceptCommand_withParams (cmd : Word32) (p : Params) (s : State) :
    acceptCommand cmd (s.withParams p) = (acceptCommand cmd s).withParams p := by
  unfold acceptCommand
  cases decode cmd with
  | error e => simp only [raiseError_withParams, withParams_busy, withParams_phase, apply_ite (State.withParams p)]
  | ok i =>
    simp only [raiseError_withParams, withParams_busy, withParams_phase, apply_ite (State.withParams p)]
    rfl

theorem writeCtrl_withParams (v : Word32) (p : Params) (s : State) :
    writeCtrl v (s.withParams p) = (writeCtrl v s).withParams p := by
  unfold writeCtrl
  split <;> rfl

theorem writeEventDone_withParams (v : Word32) (p : Params) (s : State) :
    writeEventDone v (s.withParams p) = (writeEventDone v s).withParams p := by
  unfold writeEventDone
  split <;> rfl

theorem writeEvent_withParams (v : Word32) (p : Params) (s : State) :
    writeEvent v (s.withParams p) = (writeEvent v s).withParams p := by
  unfold writeEvent
  rw [writeEventDone_withParams]
  split <;> rfl

theorem writeMbuf_withParams (off : Offset) (w : Fin 16) (v : Word32) (p : Params) (s : State) :
    writeMbuf off w v (s.withParams p) = (writeMbuf off w v s).withParams p := by
  unfold writeMbuf
  rw [withParams_busy, raiseError_withParams, apply_ite (State.withParams p)]
  rfl

/-- A write does not depend on the parameters at all (R129). -/
theorem busWrite_withParams (size : AccessSize) (off : Offset) (v : Word32) (p : Params) (s : State) :
    busWrite size off v (s.withParams p) = (busWrite size off v s).withParams p := by
  unfold busWrite
  rcases target size off with _ | r
  · exact raiseError_withParams _ _ p s
  · cases r with
    | ctrl => exact writeCtrl_withParams v p s
    | event => exact writeEvent_withParams v p s
    | cmd => exact acceptCommand_withParams v p s
    | mbuf w => exact writeMbuf_withParams off w v p s
    | _ => exact raiseError_withParams _ _ p s

/-- Settles O38: a read depends on the parameters through CONFIG only, and a write not at all. -/
theorem tablesAreInvisibleToAccesses : Obligations.TablesAreInvisibleToAccesses := by
  intro a s p hi ho
  cases a with
  | read size off => exact busRead_withParams hi ho size off
  | write size off v => exact busWrite_withParams size off v p s

end Sys2Proof.Machine
end

section
/-! PROOFS. The window in the host's address space, and the turns a step takes from the host (spec/20_memory.md R50, R63,
spec/70_reset_and_hazards.md R190). -/

namespace Sys2Proof.Machine

/-- The window holds the 4096 addresses from `WINDOW_BASE` on, each at one offset (R50). -/
theorem offsetAt_eq_some_iff {address : Nat} {off : Offset} :
    offsetAt address = some off ↔ address = Config.windowBase + off.toNat := by
  have hoff : off.toNat < 4096 := off.isLt
  unfold offsetAt
  split
  next hin =>
    have hlt : address - Config.windowBase < 2 ^ 12 := by omega
    rw [Option.some_inj, ← BitVec.toNat_inj, BitVec.toNat_ofNat, Nat.mod_eq_of_lt hlt]
    omega
  next hout => exact iff_of_false nofun fun h => hout (by omega)

/-- `WINDOW_BASE` is a multiple of the window's size (R5). -/
theorem windowBase_aligned : Config.windowBase % 4096 = 0 := Nat.mul_mod_right 4096 Config.windowPage

/-- Settles O39: an address reaches an offset exactly when it is the base plus that offset, and the base is whole pages. -/
theorem windowPlacement : Obligations.WindowPlacement :=
  ⟨fun _ => offsetAt_eq_some_iff.2 rfl, fun _ _ => offsetAt_eq_some_iff.1, windowBase_aligned⟩

/-- With a hardware reset in front of the schedule, a step is that reset (R190). -/
theorem step_hardReset {s : State} {ts : List Turn} (h : s.schedule = .hardReset :: ts) :
    step s = .next (resetCore (setSchedule ts s)) := by
  rw [step, h]
  rfl

/-- Settles O15: the turn in front of the schedule is the one a step takes. -/
theorem stepServesTheHostTurn : Obligations.StepServesTheHostTurn :=
  fun _ _ => ⟨fun _ => step_access, step_hardReset⟩

end Sys2Proof.Machine
end

section
/-! PROOFS. The opcode map: a command word seen by its fields, the words a row matches, and what the decoder makes of a
word that no row matches (spec/30_encoding.md R70, R72 to R74, R79). -/

namespace Sys2Proof

/-! ### A word by its fields -/

/-- OPC, REMLEN and RSVD are all the bits of a word (R70). -/
theorem append_fields (cmd : Word32) : rsvdField cmd ++ remlenField cmd ++ opcField cmd = cmd := by
  have hhigh : rsvdField cmd ++ remlenField cmd = cmd.extractLsb' 8 24 :=
    BitVec.extractLsb'_append_extractLsb'_eq_extractLsb' (show 14 = 8 + 6 from rfl)
  have hall : cmd.extractLsb' 8 24 ++ opcField cmd = cmd.extractLsb' 0 32 :=
    BitVec.extractLsb'_append_extractLsb'_eq_extractLsb' (show 8 = 0 + 8 from rfl)
  rw [hhigh, hall, BitVec.extractLsb'_eq_self]

theorem eq_iff_fields {a b : Word32} :
    a = b ↔ opcField a = opcField b ∧ remlenField a = remlenField b ∧ rsvdField a = rsvdField b := by
  refine ⟨fun h => h ▸ ⟨rfl, rfl, rfl⟩, fun ⟨hopc, hrem, hrsvd⟩ => ?_⟩
  rw [← append_fields a, ← append_fields b, hopc, hrem, hrsvd]

theorem opcField_and (a b : Word32) : opcField (a &&& b) = opcField a &&& opcField b := BitVec.extractLsb'_and

theorem remlenField_and (a b : Word32) : remlenField (a &&& b) = remlenField a &&& remlenField b :=
  BitVec.extractLsb'_and

theorem rsvdField_and (a b : Word32) : rsvdField (a &&& b) = rsvdField a &&& rsvdField b := BitVec.extractLsb'_and

/-! ### The rows of the opcode map -/

/-- The word has the operation code `opc`, and every other bit that a command with that code fixes is 0 (R72). -/
def FitsRow (opc : BitVec 8) (cmd : Word32) : Prop :=
  opcField cmd = opc ∧ (opc = 3 ∨ remlenField cmd = 0) ∧ rsvdField cmd = 0

/-- A row fixes OPC and RSVD whole, and REMLEN unless it is FINAL's (R72). -/
theorem opcodeTable_mask : ∀ row ∈ opcodeTable,
    opcField row.mask = BitVec.allOnes 8 ∧
    remlenField row.mask = (if row.opc = 3 then 0 else BitVec.allOnes 6) ∧
    rsvdField row.mask = BitVec.allOnes 18 := by decide

/-- What a row fixes outside OPC is 0 (R72). -/
theorem opcodeTable_pattern : ∀ row ∈ opcodeTable,
    opcField row.pattern = row.opc ∧ remlenField row.pattern = 0 ∧ rsvdField row.pattern = 0 := by decide

theorem eq_of_opc_eq : ∀ row ∈ opcodeTable, ∀ row' ∈ opcodeTable, row.opc = row'.opc → row = row' := by decide

/-- Every command has a row (R72). -/
theorem Instr.exists_row (i : Instr) : ∃ row ∈ opcodeTable, row.opc = i.opc := by
  cases i with
  | nop => exact ⟨⟨0x00, 0x00000000, 0xFFFFFFFF⟩, by decide, rfl⟩
  | init => exact ⟨⟨0x01, 0x00000001, 0xFFFFFFFF⟩, by decide, rfl⟩
  | absorb => exact ⟨⟨0x02, 0x00000002, 0xFFFFFFFF⟩, by decide, rfl⟩
  | final r => exact ⟨⟨0x03, 0x00000003, 0xFFFFC0FF⟩, by decide, rfl⟩

/-- Every row is a command's (R72). -/
theorem exists_opc_eq {row : OpcodeRow} (h : row ∈ opcodeTable) : ∃ i : Instr, i.opc = row.opc := by
  simp only [opcodeTable, List.mem_cons, List.not_mem_nil, or_false] at h
  obtain rfl | rfl | rfl | rfl := h
  · exact ⟨.nop, rfl⟩
  · exact ⟨.init, rfl⟩
  · exact ⟨.absorb, rfl⟩
  · exact ⟨.final 0, rfl⟩

theorem and_mask_eq_pattern_iff {row : OpcodeRow} (h : row ∈ opcodeTable) (cmd : Word32) :
    cmd &&& row.mask = row.pattern ↔ FitsRow row.opc cmd := by
  obtain ⟨hopc, hrem, hrsvd⟩ := opcodeTable_mask row h
  obtain ⟨popc, prem, prsvd⟩ := opcodeTable_pattern row h
  rw [eq_iff_fields, opcField_and, remlenField_and, rsvdField_and, hopc, hrem, hrsvd, popc, prem, prsvd,
    BitVec.and_allOnes, BitVec.and_allOnes, FitsRow]
  by_cases hfinal : row.opc = 3
  · simp [hfinal]
  · rw [if_neg hfinal, BitVec.and_allOnes, or_iff_right hfinal]

theorem picks_iff {row : OpcodeRow} (cmd : Word32) : row.picks cmd = true ↔ cmd &&& row.mask = row.pattern :=
  beq_iff_eq

/-! ### The decoder -/

theorem Instr.opc_le (i : Instr) : i.opc.toNat ≤ 3 := by cases i <;> simp [Instr.opc]

/-- A word decodes to a command whose row it fits, or it fits no command's row and is refused by name (R72, R74). -/
theorem decode_cases (cmd : Word32) :
    (∃ i, decode cmd = .ok i ∧ FitsRow i.opc cmd) ∨
      (decode cmd = .error (if 3 < (opcField cmd).toNat then .opcode else .rsvd) ∧ ∀ i : Instr, ¬FitsRow i.opc cmd) := by
  unfold decode
  split
  next hopc =>
    refine .inr ⟨rfl, fun i ⟨hi, _, _⟩ => ?_⟩
    exact absurd i.opc_le (Nat.not_le.2 (hi ▸ hopc))
  split
  next hbits =>
    refine .inr ⟨rfl, fun i ⟨hi, hrem, hrsvd⟩ => ?_⟩
    obtain hbad | ⟨hfinal, hbad⟩ := hbits
    · exact hbad hrsvd
    · exact hrem.elim (fun h => hfinal (hi.trans h)) hbad
  next hopc hbits =>
    simp only [not_or, not_and, not_not] at hbits
    obtain ⟨hrsvd, hrem⟩ := hbits
    have hfits (i : Instr) (h : opcField cmd = i.opc) : FitsRow i.opc cmd :=
      ⟨h, or_iff_not_imp_left.2 (h ▸ hrem), hrsvd⟩
    left
    split
    next h => exact ⟨.nop, rfl, hfits .nop h⟩
    split
    next h => exact ⟨.init, rfl, hfits .init h⟩
    split
    next h => exact ⟨.absorb, rfl, hfits .absorb h⟩
    next h0 h1 h2 =>
      have h3 : opcField cmd = 3 := by bv_omega
      exact ⟨.final _, rfl, hfits (.final _) h3⟩

/-- A word decodes to a command of a given row exactly when it fits the row (R72). -/
theorem decode_opc_iff (j : Instr) (cmd : Word32) :
    (∃ i, decode cmd = .ok i ∧ i.opc = j.opc) ↔ FitsRow j.opc cmd := by
  obtain ⟨i, hd, hfits⟩ | ⟨hd, hnone⟩ := decode_cases cmd
  · constructor
    · rintro ⟨k, hk, hopc⟩
      obtain rfl : i = k := Except.ok.inj (hd.symm.trans hk)
      exact hopc ▸ hfits
    · exact fun h => ⟨i, hd, hfits.1.symm.trans h.1⟩
  · exact iff_of_false (fun ⟨_, hk, _⟩ => nomatch hd.symm.trans hk) (hnone j)

/-- A word no row matches decodes to OPCODE or RSVD (R74). -/
theorem decode_of_no_row {cmd : Word32} (h : ∀ row ∈ opcodeTable, cmd &&& row.mask ≠ row.pattern) :
    decode cmd = .error (if 3 < (opcField cmd).toNat then .opcode else .rsvd) := by
  obtain ⟨i, -, hfits⟩ | ⟨hd, -⟩ := decode_cases cmd
  · obtain ⟨row, hrow, hopc⟩ := i.exists_row
    exact absurd ((and_mask_eq_pattern_iff hrow cmd).2 (hopc ▸ hfits)) (h row hrow)
  · exact hd

/-- Settles O4: a row matches the words that fit it, these are the words that decode to a command of the row, and the OPC
of a word names its row. -/
theorem decodePicksTheTableRow : Obligations.DecodePicksTheTableRow := by
  refine ⟨rfl, fun cmd => ⟨fun row hrow row' hrow' hp hp' => ?_, fun row hrow => ⟨picks_iff cmd, ?_⟩⟩⟩
  · rw [picks_iff, and_mask_eq_pattern_iff hrow] at hp
    rw [picks_iff, and_mask_eq_pattern_iff hrow'] at hp'
    exact eq_of_opc_eq row hrow row' hrow' (hp.1.symm.trans hp'.1)
  · obtain ⟨j, hj⟩ := exists_opc_eq hrow
    rw [picks_iff, and_mask_eq_pattern_iff hrow, ← hj, decode_opc_iff]

end Sys2Proof

namespace Sys2Proof.Machine

/-- A word that does not decode is refused with its own error when a command could be accepted (R74, R120). -/
theorem acceptCommand_decodeError {s : State} {cmd : Word32} {e : DecodeError} (hp : s.phase ≠ .cfgFault)
    (hb : s.busy = false) (hd : decode cmd = .error e) : acceptCommand cmd s = raiseError (decodeErrorCode e) cmd s := by
  simp only [acceptCommand, if_neg hp, hb, Bool.false_eq_true, if_false, hd]

/-- Settles O5: such a word does not decode, so the acceptance check raises the decoder's error. -/
theorem illegalWordsAreRefused : Obligations.IllegalWordsAreRefused := by
  intro s cmd hp hb hrow
  rw [hostAccess_cmd, acceptCommand_decodeError hp hb (decode_of_no_row hrow), apply_ite decodeErrorCode]
  rfl

/-- Settles O1: each word is decoded, or the command encoded, by evaluation. -/
theorem commandWordsDecode : Obligations.CommandWordsDecode := by
  unfold Obligations.CommandWordsDecode
  decide

end Sys2Proof.Machine
end

section
/-! PROOFS. Byte lists as numbers, and the views of a block as eight words and as one integer
(spec/20_memory.md R52, spec/40_datapath.md R81, R82). -/

namespace Sys2Proof.Machine

/-! ### Byte lists as numbers -/

/-- The number of a byte list determines every byte of it (R52). -/
theorem ofNat_leNat_div (bs : List Byte) (j : Nat) : BitVec.ofNat 8 (leNat bs / 256 ^ j) = bs.getD j 0 := by
  induction bs generalizing j with
  | nil => simp
  | cons b bs ih =>
    have hb := b.isLt
    cases j with
    | zero =>
      apply BitVec.eq_of_toNat_eq
      simp only [pow_zero, Nat.div_one, leNat_cons, BitVec.toNat_ofNat, List.getD_cons_zero]
      omega
    | succ j =>
      have hdiv : leNat (b :: bs) / 256 ^ (j + 1) = leNat bs / 256 ^ j := by
        rw [pow_succ', ← Nat.div_div_eq_div_mul, leNat_cons, Nat.add_mul_div_left _ _ (by decide),
          Nat.div_eq_of_lt hb, Nat.zero_add]
      rw [hdiv, ih, List.getD_cons_succ]

/-- Byte lists of one length that stand for the same number are equal. -/
theorem leNat_inj {xs ys : List Byte} (hlen : xs.length = ys.length) (h : leNat xs = leNat ys) : xs = ys := by
  refine List.ext_getElem hlen fun i hx hy => ?_
  rw [← List.getD_eq_getElem xs 0 hx, ← List.getD_eq_getElem ys 0 hy, ← ofNat_leNat_div, ← ofNat_leNat_div, h]

/-- The `n` low base-256 digits of a number stand for the number modulo `256 ^ n`. -/
theorem leNat_digits (n v : Nat) :
    leNat ((List.range n).map fun k => BitVec.ofNat 8 (v / 256 ^ k)) = v % 256 ^ n := by
  induction n generalizing v with
  | zero => simp [Nat.mod_one]
  | succ n ih =>
    have hshift (k : Nat) : v / 256 ^ (k + 1) = v / 256 / 256 ^ k := by rw [pow_succ', Nat.div_div_eq_div_mul]
    rw [List.range_succ_eq_map, List.map_cons, List.map_map, leNat_cons, pow_succ', Nat.mod_mul, ← ih (v / 256)]
    simp [Function.comp_def, hshift]

/-- The number of a byte list as a sum: byte `k` weighs `256 ^ k`. -/
theorem leNat_ofFn {n : Nat} (f : Fin n → Byte) : leNat (List.ofFn f) = ∑ k, (f k).toNat * 2 ^ (8 * k.val) := by
  induction n with
  | zero => simp
  | succ n ih =>
    have hweight (k : Nat) : 2 ^ (8 * (k + 1)) = 256 * 2 ^ (8 * k) := by
      rw [Nat.mul_succ, pow_add, mul_comm, show 2 ^ 8 = 256 from rfl]
    simp [List.ofFn_succ, Fin.sum_univ_succ, ih, hweight, Finset.mul_sum, Nat.mul_left_comm]

theorem laneByte_eq_ofNat {w : Nat} (v : BitVec w) (k : Nat) : laneByte v k = BitVec.ofNat 8 (v.toNat / 256 ^ k) := by
  apply BitVec.eq_of_toNat_eq
  rw [laneByte, BitVec.extractLsb'_toNat, BitVec.toNat_ofNat, Nat.shiftRight_eq_div_pow, pow_mul,
    show 2 ^ 8 = 256 from rfl]

theorem laneByte_xor {w : Nat} (u v : BitVec w) (k : Nat) : laneByte (u ^^^ v) k = laneByte u k ^^^ laneByte v k :=
  BitVec.extractLsb'_xor

/-! ### The word view -/

/-- The bytes of a word of a block, in ascending order (R81). -/
def wordBytes (b : Block) (w : Fin 8) : List Byte := List.ofFn fun k : Fin 8 => b[8 * w.val + k.val]

@[simp] theorem wordBytes_length (b : Block) (w : Fin 8) : (wordBytes b w).length = 8 := List.length_ofFn

theorem wordBytes_getElem (b : Block) (w k : Fin 8) (h : k.val < (wordBytes b w).length) :
    (wordBytes b w)[k.val] = b[8 * w.val + k.val] := List.getElem_ofFn _

theorem wordView_toNat (b : Block) (w : Fin 8) : (wordView b w).toNat = leNat (wordBytes b w) := by
  have hlt : leNat (wordBytes b w) < 256 ^ 8 := wordBytes_length b w ▸ leNat_lt (wordBytes b w)
  rw [wordView, ← List.ofFn_eq_map, BitVec.toNat_ofNat]
  exact Nat.mod_eq_of_lt hlt

/-- Lane `k` of word `w` is byte `8w + k` (R81). -/
theorem laneByte_wordView (b : Block) (w k : Fin 8) : laneByte (wordView b w) k.val = b[8 * w.val + k.val] := by
  rw [laneByte_eq_ofNat, wordView_toNat, ofNat_leNat_div, List.getD_eq_getElem _ _ (by simp), wordBytes_getElem]

/-- Byte `8w + k` of `UNWORD(v)` is lane `k` of `v_w` (R81). -/
theorem unword_lane (v : Vector Word64 8) (w k : Fin 8) : (unword v)[8 * w.val + k.val] = laneByte v[w] k.val := by
  have hword : (8 * w.val + k.val) / 8 = w.val := by omega
  have hlane : (8 * w.val + k.val) % 8 = k.val := by omega
  rw [unword_getElem]
  simp only [hword, hlane, Fin.getElem_fin]

theorem wordView_unword (v : Vector Word64 8) (w : Fin 8) : wordView (unword v) w = v[w] := by
  have hbytes : wordBytes (unword v) w = (List.range 8).map fun k => BitVec.ofNat 8 (v[w].toNat / 256 ^ k) := by
    refine List.ext_getElem (by simp) fun k hk _ => ?_
    have hk8 : k < 8 := by simpa using hk
    rw [wordBytes_getElem (unword v) w ⟨k, hk8⟩ hk, unword_lane, laneByte_eq_ofNat, List.getElem_map, List.getElem_range]
  apply BitVec.eq_of_toNat_eq
  rw [wordView_toNat, hbytes, leNat_digits]
  exact Nat.mod_eq_of_lt v[w].isLt

theorem unword_wordView (b : Block) : unword (Vector.ofFn fun w => wordView b w) = b := by
  ext i hi : 1
  have hbyte := laneByte_wordView b ⟨i / 8, by omega⟩ ⟨i % 8, by omega⟩
  simpa [Nat.div_add_mod] using hbyte

/-- Settles O40: the word view is the number of eight bytes, and both views are read lane by lane. -/
theorem wordViewLaws : Obligations.WordView :=
  ⟨fun b w => (wordView_toNat b w).trans (leNat_ofFn _), unword_lane, wordView_unword, unword_wordView⟩

/-! ### The integer view -/

/-- The bytes of a block, least significant first (R82). -/
def bytesFromLow (o : IntOrder) (b : Block) : List Byte :=
  match o with
  | .be => b.toList.reverse
  | .le => b.toList

theorem intView_eq (o : IntOrder) (b : Block) : intView o b = leNat (bytesFromLow o b) := by cases o <;> rfl

@[simp] theorem bytesFromLow_length (o : IntOrder) (b : Block) : (bytesFromLow o b).length = 64 := by
  cases o <;> simp [bytesFromLow]

theorem byteRank_lt (o : IntOrder) {i : Nat} (hi : i < 64) : byteRank o i < 64 := by
  cases o <;> simp only [byteRank] <;> omega

theorem byteRank_byteRank (o : IntOrder) {i : Nat} (hi : i < 64) : byteRank o (byteRank o i) = i := by
  cases o <;> simp only [byteRank]
  omega

/-- The byte of rank `k` stands at the index whose rank is `k` (R82). -/
theorem bytesFromLow_getElem (o : IntOrder) (b : Block) (k : Nat) (hk : k < (bytesFromLow o b).length) :
    (bytesFromLow o b)[k] = b[byteRank o k]'(byteRank_lt o (by simpa using hk)) := by
  cases o <;> simp [bytesFromLow, byteRank]

theorem bytesFromLow_eq_ofFn (o : IntOrder) (b : Block) :
    bytesFromLow o b = List.ofFn fun k : Fin 64 => b[byteRank o k.val]'(byteRank_lt o k.isLt) :=
  List.ext_getElem (by simp) fun k _ _ => by rw [bytesFromLow_getElem, List.getElem_ofFn]

theorem bytesFromLow_blkView (o : IntOrder) (v : Nat) :
    bytesFromLow o (blkView o v) = (List.range 64).map fun k => BitVec.ofNat 8 (v / 256 ^ k) := by
  refine List.ext_getElem (by simp) fun k hk _ => ?_
  have hk64 : k < 64 := by simpa using hk
  rw [bytesFromLow_getElem, blkView_getElem, byteRank_byteRank o hk64]
  simp

/-- BLK takes a number modulo 2^512 (R82). -/
theorem intView_blkView (o : IntOrder) (v : Nat) : intView o (blkView o v) = v % 2 ^ 512 := by
  rw [intView_eq, bytesFromLow_blkView, leNat_digits, show 256 = 2 ^ 8 from rfl, ← pow_mul]

theorem blkView_intView (o : IntOrder) (b : Block) : blkView o (intView o b) = b := by
  ext i hi : 1
  rw [blkView_getElem, intView_eq, ofNat_leNat_div,
    List.getD_eq_getElem _ _ (by simpa using byteRank_lt o hi), bytesFromLow_getElem]
  simp only [byteRank_byteRank o hi]

theorem intView_injective (o : IntOrder) : Function.Injective (intView o) :=
  Function.LeftInverse.injective (blkView_intView o)

/-- Settles O41: both sums are over the bytes by rank, for BE after reversing the index, and BLK undoes the view. -/
theorem integerView : Obligations.IntegerView := by
  refine ⟨fun b => ?_, fun b => ?_, fun o v hv => ?_, blkView_intView⟩
  · rw [intView_eq, bytesFromLow_eq_ofFn, leNat_ofFn, ← Equiv.sum_comp Fin.revPerm]
    refine Finset.sum_congr rfl fun i _ => ?_
    have hrank : byteRank .be i.rev.val = i.val := by simp only [byteRank, Fin.val_rev]; omega
    have hweight : i.rev.val = 63 - i.val := by rw [Fin.val_rev]; omega
    simp only [Fin.revPerm_apply, hrank, ← hweight, Fin.getElem_fin]
  · rw [intView_eq, bytesFromLow_eq_ofFn, leNat_ofFn]
    rfl
  · rw [intView_blkView, Nat.mod_eq_of_lt hv]

end Sys2Proof.Machine
end

section
/-! PROOFS. The 512-bit arithmetic: ADD512 as modular addition and as a byte carry chain, and the counter increments
(spec/40_datapath.md R92, R93, R97). -/

namespace Sys2Proof.Machine

/-! ### ADD512 -/

/-- ADD512 is addition modulo 2^512 in the integer view (R92). -/
theorem intView_add512 (o : IntOrder) (a b : Block) :
    intView o (add512 o a b) = (intView o a + intView o b) % 2 ^ 512 := by
  rw [add512, intView_blkView, Nat.mod_mod]

theorem blkView_zero (o : IntOrder) : blkView o 0 = zeroBlock := by ext i hi : 1; simp

theorem intView_zeroBlock (o : IntOrder) : intView o zeroBlock = 0 := by
  rw [← blkView_zero o, intView_blkView, Nat.zero_mod]

theorem add512_comm (o : IntOrder) (a b : Block) : add512 o a b = add512 o b a := by
  rw [add512, add512, Nat.add_comm]

theorem add512_assoc (o : IntOrder) (a b c : Block) : add512 o (add512 o a b) c = add512 o a (add512 o b c) := by
  apply intView_injective o
  simp only [intView_add512, Nat.mod_add_mod, Nat.add_mod_mod, Nat.add_assoc]

@[simp] theorem add512_zeroBlock (o : IntOrder) (a : Block) : add512 o a zeroBlock = a := by
  rw [add512, intView_zeroBlock, Nat.add_zero, Nat.mod_eq_of_lt (intView_lt o a), blkView_intView]

/-- Settles O47: each law is the law of addition modulo 2^512, and the integer view is injective. -/
theorem add512Arithmetic : Obligations.Add512Arithmetic := fun o a b c =>
  ⟨intView_add512 o a b, add512_comm o a b, add512_assoc o a b c, add512_zeroBlock o a⟩

/-! ### The carry chain -/

theorem addBytes_length (c : Nat) (xs ys : List Byte) : (addBytes c xs ys).length = min xs.length ys.length := by
  induction xs generalizing c ys with
  | nil => simp [addBytes]
  | cons x xs ih =>
    cases ys with
    | nil => simp [addBytes]
    | cons y ys => simp only [addBytes, List.length_cons, ih, Nat.add_min_add_right]

/-- The carry chain adds the numbers of two lists of one length and drops the last carry (R92). -/
theorem leNat_addBytes {xs ys : List Byte} (hlen : xs.length = ys.length) (c : Nat) :
    leNat (addBytes c xs ys) = (leNat xs + leNat ys + c) % 256 ^ xs.length := by
  induction xs generalizing c ys with
  | nil => simp [addBytes, Nat.mod_one]
  | cons x xs ih =>
    cases ys with
    | nil => simp at hlen
    | cons y ys =>
      have hsum : leNat (x :: xs) + leNat (y :: ys) + c = x.toNat + y.toNat + c + 256 * (leNat xs + leNat ys) := by
        simp only [leNat_cons]
        ring
      have hcarry : (x.toNat + y.toNat + c + 256 * (leNat xs + leNat ys)) / 256 =
          leNat xs + leNat ys + (x.toNat + y.toNat + c) / 256 := by omega
      rw [hsum, List.length_cons, pow_succ', Nat.mod_mul, Nat.add_mul_mod_self_left, hcarry,
        ← ih (Nat.succ.inj hlen)]
      simp [addBytes]

/-- Byte for byte from the least significant one, ADD512 is the carry chain (R92). -/
theorem bytesFromLow_add512 (o : IntOrder) (a b : Block) :
    bytesFromLow o (add512 o a b) = addBytes 0 (bytesFromLow o a) (bytesFromLow o b) := by
  apply leNat_inj
  · simp [addBytes_length]
  · rw [leNat_addBytes (by simp), ← intView_eq, ← intView_eq, ← intView_eq, intView_add512, bytesFromLow_length,
      Nat.add_zero, show 256 = 2 ^ 8 from rfl, ← pow_mul]

/-- Settles O48: the carry chain stands for the sum, and a byte list is determined by its number. -/
theorem add512IsCarryChain : Obligations.Add512IsCarryChain := fun a b =>
  ⟨fun o => intView_add512 o a b, bytesFromLow_add512 .be a b, bytesFromLow_add512 .le a b⟩

/-! ### ENCODE -/

@[simp] theorem encodeCount_zero (o : IntOrder) : encodeCount o 0 = zeroBlock := by
  rw [encodeCount, Nat.zero_mod, blkView_zero]

theorem intView_encodeCount (o : IntOrder) (v : Nat) : intView o (encodeCount o v) = v % 2 ^ 512 := by
  rw [encodeCount, intView_blkView, Nat.mod_mod]

/-- A number below 2^16 has only its two low base-256 digits. -/
theorem digit_of_lt {v : Nat} (hv : v < 2 ^ 16) (k : Nat) :
    v / 256 ^ k % 256 = if k = 0 then v % 256 else if k = 1 then v / 256 else 0 := by
  match k with
  | 0 => simp
  | 1 => simp; omega
  | k + 2 =>
    have hpow : 2 ^ 16 ≤ 256 ^ (k + 2) := by
      rw [pow_add]
      exact Nat.le_mul_of_pos_left _ (Nat.pow_pos (by decide))
    simp [Nat.div_eq_of_lt (Nat.lt_of_lt_of_le hv hpow)]

/-- The byte of rank `k` in a counter increment below 2^16 (R93). -/
theorem encodeCount_toNat (o : IntOrder) {v : Nat} (hv : v < 2 ^ 16) (i : Fin 64) :
    (encodeCount o v)[i].toNat =
      if byteRank o i.val = 0 then v % 256 else if byteRank o i.val = 1 then v / 256 else 0 := by
  have hpow : 2 ^ 16 < 2 ^ 512 := pow_lt_pow_right₀ one_lt_two (by decide)
  have hsmall : v % 2 ^ 512 = v := Nat.mod_eq_of_lt (hv.trans hpow)
  rw [encodeCount, hsmall, Fin.getElem_fin, blkView_getElem, BitVec.toNat_ofNat, ← digit_of_lt hv]

/-- Settles O49: a byte of rank above 1 is 0, and the rank of a byte is as the order says. -/
theorem counterEncoding : Obligations.CounterEncoding := by
  refine ⟨fun v i hv => ⟨?_, ?_⟩, encodeCount_zero, intView_encodeCount⟩
  · have h0 : byteRank .be i.val = 0 ↔ i.val = 63 := by simp only [byteRank]; omega
    have h1 : byteRank .be i.val = 1 ↔ i.val = 62 := by simp only [byteRank]; omega
    simp only [encodeCount_toNat .be hv, h0, h1]
  · exact encodeCount_toNat .le hv i

end Sys2Proof.Machine
end

section
/-! PROOFS. The padded remainder and the blocks it is cut into (spec/40_datapath.md R94, R95). -/

namespace Sys2Proof.Machine

theorem paddedLength_le {r : Nat} (h : r ≤ 55) : paddedLength r = 64 := if_pos h

theorem paddedLength_gt {r : Nat} (h : 55 < r) : paddedLength r = 128 := if_neg (Nat.not_le.2 h)

/-- A remainder, its marker and its length field fit in the padded length (R94). -/
theorem add_nine_le_paddedLength {r : Nat} (h : r ≤ 63) : r + 9 ≤ paddedLength r := by
  unfold paddedLength
  split <;> omega

theorem pad_length {rem : List Byte} (h : rem.length ≤ 63) : (pad rem).length = paddedLength rem.length := by
  have := add_nine_le_paddedLength h
  simp only [pad, List.length_append, List.length_singleton, List.length_replicate, le64_length]
  omega

/-- Byte `j` of the length field (R94). -/
theorem le64_getD (v : Nat) {j : Nat} (hj : j < 8) (hv : v < 2 ^ 64) :
    (le64 v).getD j 0 = BitVec.ofNat 8 (v / 2 ^ (8 * j)) := by
  rw [List.getD_eq_getElem _ _ (by simpa using hj)]
  simp only [le64, List.getElem_map, List.getElem_range]
  rw [laneByte_eq_ofNat, BitVec.toNat_ofNat, Nat.mod_eq_of_lt hv, pow_mul, show 2 ^ 8 = 256 from rfl]

/-- The four parts of a padded remainder, in order (R94). -/
theorem pad_getD {rem : List Byte} (h : rem.length ≤ 63) {k : Nat} (hk : k < paddedLength rem.length) :
    (pad rem).getD k 0 =
      if k < rem.length then rem.getD k 0
      else if k = rem.length then 0x80
      else if k < paddedLength rem.length - 8 then 0
      else BitVec.ofNat 8 (8 * rem.length / 2 ^ (8 * (k - (paddedLength rem.length - 8)))) := by
  have hfit := add_nine_le_paddedLength h
  rw [pad, List.append_assoc, List.append_assoc]
  split
  next hrem => rw [List.getD_append _ _ _ _ hrem]
  next hrem =>
  rw [List.getD_append_right _ _ _ _ (Nat.not_lt.1 hrem)]
  split
  next hmark => simp [hmark]
  next hmark =>
  rw [List.getD_append_right _ _ _ _ (by simp; omega)]
  split
  next hzero =>
    rw [List.getD_append _ _ _ _ (by simp; omega), List.getD_replicate _ (by simp; omega)]
  next hlen =>
    rw [List.getD_append_right _ _ _ _ (by simp; omega), ← le64_getD _ (by omega) (by omega)]
    congr 1
    simp only [List.length_singleton, List.length_replicate]
    omega

/-- Settles O50: the padded remainder is its four parts one after the other. -/
theorem paddingLayout : Obligations.PaddingLayout := by
  intro rem _ h
  rw [pad_length h]
  exact ⟨rfl, fun k hk => pad_getD h hk⟩

theorem blockOfBytes_toList {bs : List Byte} (h : 64 ≤ bs.length) : (blockOfBytes bs).toList = bs.take 64 := by
  refine List.ext_getElem (by simpa using h) fun i hi _ => ?_
  have hi64 : i < 64 := by simpa using hi
  rw [Vector.getElem_toList, blockOfBytes_getElem, List.getElem_take, List.getD_eq_getElem]

/-- Settles O51: a remainder of up to 55 bytes pads to one block, a longer one to two. -/
theorem paddedBlocks : Obligations.PaddedBlocks := by
  intro o rem _ h
  have hlen := pad_length h
  refine ⟨blockOfBytes (pad rem), blockOfBytes ((pad rem).drop 64), blockOfBytes_toList ?_, fun hlong => ?_, ?_⟩
  · rw [hlen, paddedLength]
    split <;> decide
  · rw [paddedLength_gt hlong] at hlen
    rw [blockOfBytes_toList (by simp [hlen]), List.take_of_length_le (by simp [hlen])]
  · by_cases hshort : rem.length ≤ 55
    · rw [paddedLength_le hshort] at hlen
      simp only [padBlocks, if_pos hlen, if_pos hshort]
    · rw [paddedLength_gt (Nat.not_le.1 hshort)] at hlen
      simp only [padBlocks, hlen, if_neg hshort]
      cases o <;> rfl

end Sys2Proof.Machine
end

section
/-! PROOFS. The table checks, and the layers X, S, P and L (spec/40_datapath.md R83 to R87, R96, R97). -/

namespace Sys2Proof.Machine

/-! ### Exclusive or -/

@[simp] theorem layerX_self (a : Block) : layerX a a = zeroBlock := by ext i hi : 1; simp

@[simp] theorem layerX_zeroBlock (a : Block) : layerX a zeroBlock = a := by ext i hi : 1; simp

theorem layerX_comm (a b : Block) : layerX a b = layerX b a := by
  ext i hi : 1
  rw [layerX_getElem, layerX_getElem, BitVec.xor_comm]

theorem layerX_assoc (a b c : Block) : layerX (layerX a b) c = layerX a (layerX b c) := by
  ext i hi : 1
  simp only [layerX_getElem, BitVec.xor_assoc]

theorem layerX_cancel_right (a b : Block) : layerX (layerX a b) b = a := by
  rw [layerX_assoc, layerX_self, layerX_zeroBlock]

/-- Settles O42: each law holds byte by byte, and X undoes itself since `X(b, b)` is ZERO. -/
theorem xorLayer : Obligations.XorLayer :=
  ⟨fun a b i => layerX_getElem a b i.val i.isLt, fun a => ⟨layerX_self a, layerX_zeroBlock a⟩,
    fun a b c => ⟨layerX_comm a b, layerX_assoc a b c, layerX_cancel_right a b⟩⟩

/-! ### Substitution -/

/-- SBOX as a function on bytes (R27). -/
def substByte (p : Params) (x : Byte) : Byte := p.sbox[x.toFin]

theorem layerS_eq_map (p : Params) (b : Block) : layerS p b = b.map (substByte p) := by
  ext i hi : 1
  rw [layerS_getElem, Vector.getElem_map, substByte]

/-- A block of 64 equal bytes goes to 64 equal bytes (R84). -/
theorem layerS_replicate (p : Params) (x : Byte) :
    layerS p (Vector.replicate 64 x) = Vector.replicate 64 (substByte p x) := by
  rw [layerS_eq_map, Vector.map_replicate]

theorem layerS_zeroBlock (p : Params) : layerS p zeroBlock = Vector.replicate 64 (substByte p 0) :=
  layerS_replicate p 0

theorem replicate_block_injective : Function.Injective (Vector.replicate 64 : Byte → Block) := fun x y h => by
  simpa using congrArg (fun b : Block => b[0]) h

theorem layerS_injective_iff (p : Params) : Function.Injective (layerS p) ↔ Function.Injective (substByte p) := by
  constructor
  · intro h x y hxy
    apply replicate_block_injective
    apply h
    rw [layerS_replicate, layerS_replicate, hxy]
  · intro h a b hab
    ext i hi : 1
    apply h
    simpa [layerS_eq_map] using congrArg (fun b : Block => b[i]) hab

theorem layerS_surjective_iff (p : Params) : Function.Surjective (layerS p) ↔ Function.Surjective (substByte p) := by
  constructor
  · intro h y
    obtain ⟨b, hb⟩ := h (Vector.replicate 64 y)
    exact ⟨b[0], by simpa [layerS_eq_map] using congrArg (fun b : Block => b[0]) hb⟩
  · intro h c
    obtain ⟨g, hg⟩ := h.hasRightInverse
    refine ⟨c.map g, ?_⟩
    ext i hi : 1
    rw [layerS_eq_map, Vector.getElem_map, Vector.getElem_map, hg]

/-- Parameters whose SBOX is `x + 1`, a bijection but no linear map: it does not take 0 to 0. -/
def successorSbox : Params :=
  { (default : Params) with sbox := Vector.ofFn fun x => BitVec.ofNat 8 (x.val + 1) }

/-- S is not linear for a general SBOX: with `x + 1`, `S(X(ZERO, ZERO))` and `X(S(ZERO), S(ZERO))` differ (R84). -/
theorem layerS_successorSbox_not_linear :
    layerS successorSbox (layerX zeroBlock zeroBlock) ≠
      layerX (layerS successorSbox zeroBlock) (layerS successorSbox zeroBlock) := by
  rw [layerX_self, layerX_self, layerS_zeroBlock]
  intro h
  have hbyte : substByte successorSbox 0 = 0 := replicate_block_injective h
  simp [substByte, successorSbox] at hbyte

/-- Settles O43: S acts on every byte alone, so it is injective, or onto, exactly when SBOX is. -/
theorem substitutionLayer : Obligations.SubstitutionLayer := by
  refine ⟨fun p => ⟨fun b i => layerS_getElem p b i.val i.isLt, fun i => ?_, ?_⟩, successorSbox, zeroBlock, zeroBlock,
    layerS_successorSbox_not_linear⟩
  · rw [layerS_zeroBlock, Fin.getElem_fin, Vector.getElem_replicate]
    rfl
  · exact and_congr (layerS_injective_iff p) (layerS_surjective_iff p)

/-! ### The table checks -/

/-- A value stands in a table exactly once when it is counted once. -/
theorem count_toList_eq_one_iff {α : Type} [DecidableEq α] {n : Nat} (v : Vector α n) (a : α) :
    v.toList.count a = 1 ↔ ∃! i : Fin n, v[i] = a := by
  have hcount := Fin.card_filter_univ_eq_vector_get_eq_count a (⟨v.toList, v.length_toList⟩ : List.Vector α n)
  rw [List.Vector.toList_mk] at hcount
  rw [← hcount, Finset.card_eq_one_iff_existsUnique]
  simp [List.Vector.get]

theorem bij8_iff (p : Params) : bij8 p = true ↔ ∀ v : Byte, ∃! i : Fin 256, p.sbox[i] = v := by
  simp only [bij8, List.all_eq_true, List.mem_range, beq_iff_eq, count_toList_eq_one_iff]
  refine ⟨fun h v => ?_, fun h v _ => h _⟩
  have hv := h v.toNat v.isLt
  rwa [BitVec.ofNat_toNat, BitVec.setWidth_eq] at hv

theorem bij6_iff (p : Params) : bij6 p = true ↔ ∀ v : Fin 64, ∃! i : Fin 64, p.perm[i] = v := by
  simp only [bij6, List.all_eq_true, List.mem_finRange, forall_const, beq_iff_eq, count_toList_eq_one_iff]

/-- Settles O52: the checks count every value, and a value counted once stands at one index. -/
theorem tableChecks : Obligations.TableChecks := fun p => ⟨bij8_iff p, bij6_iff p⟩

/-! ### Permutation -/

/-- PERM as a function on byte positions (R28). -/
def sourceIndex (p : Params) (i : Fin 64) : Fin 64 := p.perm[i]

/-- BIJ6 says that PERM is a bijection on byte positions (R96). -/
theorem bij6_iff_bijective (p : Params) : bij6 p = true ↔ Function.Bijective (sourceIndex p) := by
  rw [bij6_iff, Function.bijective_iff_existsUnique]
  rfl

theorem layerP_source (p : Params) (b : Block) (i : Fin 64) : (layerP p b)[i] = b[sourceIndex p i] :=
  layerP_getElem p b i.val i.isLt

theorem block_ext {a b : Block} (h : ∀ i : Fin 64, a[i] = b[i]) : a = b :=
  Vector.ext fun i hi => h ⟨i, hi⟩

theorem toList_eq_ofFn (b : Block) : b.toList = List.ofFn fun i : Fin 64 => b[i] :=
  List.ext_getElem (by rw [Vector.length_toList, List.length_ofFn]) fun i _ _ => by
    rw [Vector.getElem_toList, List.getElem_ofFn, Fin.getElem_fin]

theorem layerP_injective {p : Params} (h : Function.Surjective (sourceIndex p)) : Function.Injective (layerP p) := by
  intro a b hab
  refine block_ext fun i => ?_
  obtain ⟨j, rfl⟩ := h i
  rw [← layerP_source, ← layerP_source, hab]

/-- A gather that reads no position twice is onto: scatter every byte back to where it is read (R97). -/
theorem layerP_surjective {p : Params} (h : Function.Injective (sourceIndex p)) : Function.Surjective (layerP p) := by
  intro out
  refine ⟨Vector.ofFn fun j => out[Function.invFun (sourceIndex p) j], block_ext fun i => ?_⟩
  rw [layerP_source, Fin.getElem_fin, Vector.getElem_ofFn]
  simp only [Fin.eta, Function.leftInverse_invFun h i]

/-- A bijective gather keeps the multiset of bytes (R85). -/
theorem layerP_perm {p : Params} (h : Function.Bijective (sourceIndex p)) (b : Block) :
    (layerP p b).toList.Perm b.toList := by
  rw [toList_eq_ofFn, toList_eq_ofFn b]
  simp only [layerP_source]
  exact Equiv.Perm.ofFn_comp_perm (Equiv.ofBijective _ h) fun i => b[i]

/-- Settles O44: BIJ6 makes PERM a permutation of the byte positions, and P gathers through it. -/
theorem permutationLayer : Obligations.PermutationLayer := fun p =>
  ⟨layerP_source p, fun h =>
    have hperm := (bij6_iff_bijective p).1 h
    ⟨⟨layerP_injective hperm.surjective, layerP_surjective hperm.injective⟩, layerP_perm hperm⟩⟩

/-! ### The linear map on a word -/

/-- `Lw` over some of the bits only: the exclusive or of `acc` and of `A[j]` for the bits `j` in `js` that are set in `v`. -/
def xorSelected (p : Params) (v : Word64) (js : List (Fin 64)) (acc : Word64) : Word64 :=
  js.foldl (fun acc j => if v.getLsbD j.val then acc ^^^ p.basis[j] else acc) acc

theorem linearWord_eq (p : Params) (v : Word64) : linearWord p v = xorSelected p v (List.finRange 64) 0#64 := by
  unfold linearWord
  rfl

@[simp] theorem xorSelected_nil (p : Params) (v acc : Word64) : xorSelected p v [] acc = acc := rfl

@[simp] theorem xorSelected_cons (p : Params) (v acc : Word64) (j : Fin 64) (js : List (Fin 64)) :
    xorSelected p v (j :: js) acc =
      xorSelected p v js (acc ^^^ if v.getLsbD j.val then p.basis[j] else 0) := by
  rw [xorSelected, List.foldl_cons]
  split <;> simp [xorSelected]

/-- The two bits of a sum select the exclusive or of what they select (R86). -/
theorem select_xor (x y : Bool) (a : Word64) :
    (if x ^^ y then a else 0) = (if x then a else 0) ^^^ (if y then a else 0) := by
  cases x <;> cases y <;> simp

theorem xorSelected_xor (p : Params) (u v : Word64) (js : List (Fin 64)) (s t : Word64) :
    xorSelected p (u ^^^ v) js (s ^^^ t) = xorSelected p u js s ^^^ xorSelected p v js t := by
  induction js generalizing s t with
  | nil => rfl
  | cons j js ih =>
    have hswap (x y : Word64) : s ^^^ t ^^^ (x ^^^ y) = s ^^^ x ^^^ (t ^^^ y) := by ac_rfl
    simp only [xorSelected_cons, BitVec.getLsbD_xor, select_xor, hswap, ih]

theorem linearWord_xor (p : Params) (u v : Word64) :
    linearWord p (u ^^^ v) = linearWord p u ^^^ linearWord p v := by
  rw [linearWord_eq, linearWord_eq, linearWord_eq, ← xorSelected_xor, BitVec.xor_self]

theorem linearWord_zero (p : Params) : linearWord p 0 = 0 := by
  have h := linearWord_xor p 0 0
  rwa [BitVec.xor_self, BitVec.xor_self] at h

/-- Only the place of the one set bit adds its `A[j]` (R86). -/
theorem xorSelected_twoPow (p : Params) (i : Fin 64) (js : List (Fin 64)) (hjs : js.Nodup) (acc : Word64) :
    xorSelected p (BitVec.twoPow 64 i.val) js acc = acc ^^^ if i ∈ js then p.basis[i] else 0 := by
  induction js generalizing acc with
  | nil => simp
  | cons j js ih =>
    obtain ⟨hj, hjs⟩ := List.nodup_cons.1 hjs
    rw [xorSelected_cons, ih hjs, BitVec.getLsbD_twoPow]
    by_cases hij : i = j
    · subst hij
      simp [hj]
    · have hval : i.val ≠ j.val := fun h => hij (Fin.ext h)
      simp [hij, hval]

theorem ofNat_two_pow (j : Fin 64) : BitVec.ofNat 64 (2 ^ j.val) = BitVec.twoPow 64 j.val := by
  apply BitVec.eq_of_toNat_eq
  rw [BitVec.toNat_ofNat, BitVec.toNat_twoPow]

theorem linearWord_twoPow (p : Params) (j : Fin 64) : linearWord p (BitVec.ofNat 64 (2 ^ j.val)) = p.basis[j] := by
  rw [ofNat_two_pow, linearWord_eq, xorSelected_twoPow p j _ (List.nodup_finRange 64),
    if_pos (List.mem_finRange j), BitVec.zero_xor]

/-! ### The linear layer -/

theorem layerL_def (p : Params) (b : Block) :
    layerL p b = unword (Vector.ofFn fun w => linearWord p (wordView b w)) := rfl

/-- L is `Lw` on each word (R87). -/
theorem wordView_layerL (p : Params) (b : Block) (w : Fin 8) :
    wordView (layerL p b) w = linearWord p (wordView b w) := by
  rw [layerL_def, wordView_unword, Fin.getElem_fin, Vector.getElem_ofFn]

/-- UNWORD takes the exclusive or of words to that of blocks, lane by lane. -/
theorem unword_xor (f g : Fin 8 → Word64) :
    unword (Vector.ofFn fun w => f w ^^^ g w) = layerX (unword (Vector.ofFn f)) (unword (Vector.ofFn g)) := by
  ext i hi : 1
  simp only [layerX_getElem, unword_getElem, Vector.getElem_ofFn, laneByte_xor]

theorem wordView_layerX (a b : Block) (w : Fin 8) : wordView (layerX a b) w = wordView a w ^^^ wordView b w := by
  have hwords := unword_xor (wordView a) (wordView b)
  rw [unword_wordView, unword_wordView] at hwords
  rw [← hwords, wordView_unword, Fin.getElem_fin, Vector.getElem_ofFn]

theorem layerL_layerX (p : Params) (a b : Block) : layerL p (layerX a b) = layerX (layerL p a) (layerL p b) := by
  simp only [layerL_def, wordView_layerX, linearWord_xor, unword_xor]

@[simp] theorem layerL_zeroBlock (p : Params) : layerL p zeroBlock = zeroBlock := by
  have h := layerL_layerX p zeroBlock zeroBlock
  rwa [layerX_self, layerX_self] at h

/-- Settles O45: `Lw` is a sum of the rows that the bits select, and L is `Lw` on each word. -/
theorem linearLayer : Obligations.LinearLayer := fun p =>
  ⟨linearWord_zero p, linearWord_twoPow p, linearWord_xor p, wordView_layerL p, layerL_zeroBlock p, layerL_layerX p⟩

end Sys2Proof.Machine
end

section
/-! PROOFS. The key schedule, the block transform and the compression function, and what they are under the identity
tables TOY-0 (spec/40_datapath.md R88 to R91, R97). -/

namespace Sys2Proof.Machine

/-! ### Rounds -/

theorem lpsx_def (p : Params) (a k : Block) : lpsx p a k = layerL p (layerP p (layerS p (layerX a k))) := rfl

/-- A sequence of keys, each the LPSX of the one before and a constant, is what the schedule lists (R89). -/
theorem keysFrom_eq_map (p : Params) (cs : List Block) (key : Nat → Block)
    (hkey : ∀ (i : Nat) (hi : i < cs.length), key (i + 1) = lpsx p (key i) cs[i]) :
    keysFrom p (key 0) cs = (List.range (cs.length + 1)).map key := by
  induction cs generalizing key with
  | nil => rfl
  | cons c cs ih =>
    have hfirst : lpsx p (key 0) c = key 1 := (hkey 0 (Nat.succ_pos _)).symm
    have hrest := ih (fun i => key (i + 1)) fun i hi => hkey (i + 1) (Nat.succ_lt_succ hi)
    rw [keysFrom_cons, hfirst, hrest, List.length_cons, List.range_succ_eq_map (n := cs.length + 1), List.map_cons,
      List.map_map]
    rfl

/-- Round key `i` of a seed (R89). -/
def roundKey (p : Params) (seed : Block) : Nat → Block
  | 0 => seed
  | i + 1 => lpsx p (roundKey p seed i) (p.roundConst.toList.getD i zeroBlock)

theorem roundKey_succ (p : Params) (seed : Block) {i : Nat} (hi : i < p.roundConst.toList.length) :
    roundKey p seed (i + 1) = lpsx p (roundKey p seed i) p.roundConst.toList[i] := by
  rw [roundKey, List.getD_eq_getElem]

theorem keySchedule_eq_map (p : Params) (seed : Block) :
    keySchedule p seed = (List.range 13).map (roundKey p seed) := by
  have h := keysFrom_eq_map p p.roundConst.toList (roundKey p seed) fun i hi => roundKey_succ p seed hi
  rwa [Vector.length_toList] at h

/-- One more key is one more round, after the others (R90). -/
theorem transformE_append_singleton (p : Params) (keys : List Block) (k m : Block) :
    transformE p (keys ++ [k]) m = lpsx p (transformE p keys m) k := by
  rw [transformE, transformE, List.foldl_append, List.foldl_cons, List.foldl_nil]

/-- The data after the rounds of the first `i` keys (R90). -/
def dataAfter (p : Params) (key : Nat → Block) (m : Block) (i : Nat) : Block := transformE p ((List.range i).map key) m

theorem dataAfter_succ (p : Params) (key : Nat → Block) (m : Block) (i : Nat) :
    dataAfter p key m (i + 1) = lpsx p (dataAfter p key m i) (key i) := by
  rw [dataAfter, List.range_succ, List.map_append, List.map_singleton, transformE_append_singleton, dataAfter]

theorem compress_def (p : Params) (h m n : Block) :
    compress p h m n = layerX (layerX (transformE p (keySchedule p (lpsx p h n)) m) h) m := rfl

/-- Settles O46: the schedule lists `roundKey`, and E goes through `dataAfter` round by round. -/
theorem compressionRounds : Obligations.CompressionRounds := by
  refine fun p => ⟨fun seed => ⟨roundKey p seed, rfl, fun i => ?_, keySchedule_eq_map p seed⟩,
    fun key m => ⟨dataAfter p key m, transformE_nil p m, fun i _ => dataAfter_succ p key m i, rfl⟩, compress_def p⟩
  have hi : i.val < p.roundConst.toList.length := by rw [Vector.length_toList]; exact i.isLt
  rw [roundKey_succ p seed hi, Vector.getElem_toList]
  rfl

/-! ### The identity tables -/

section IdentityTables
variable {p : Params} (htoy : Toy0 p)
include htoy

theorem layerS_toy0 (b : Block) : layerS p b = b := by
  obtain ⟨hsbox, -⟩ := htoy
  ext i hi : 1
  rw [layerS_getElem]
  exact (hsbox b[i].toFin).trans ((BitVec.ofNat_toNat ..))

theorem layerP_toy0 (b : Block) : layerP p b = b := by
  obtain ⟨-, hperm, -⟩ := htoy
  refine block_ext fun i => ?_
  have hi : sourceIndex p i = i := hperm i
  simp only [layerP_source, hi]

/-- With `A[j] = 2^j`, the part of `v` that bit `j` selects is bit `j` itself (R97). -/
theorem getLsbD_select_toy0 (v : Word64) (i j : Fin 64) :
    (if v.getLsbD j.val then p.basis[j] else 0).getLsbD i.val = (decide (i = j) && v.getLsbD i.val) := by
  obtain ⟨-, -, hbasis, -⟩ := htoy
  have hbit : p.basis[j] = BitVec.twoPow 64 j.val := (hbasis j).trans (ofNat_two_pow j)
  by_cases hij : i = j
  · subst hij
    cases hv : v.getLsbD i.val <;> simp [hbit]
  · have hval : i.val ≠ j.val := fun h => hij (Fin.ext h)
    cases v.getLsbD j.val <;> simp [hbit, hij, hval]

/-- With `A[j] = 2^j`, the bits selected are the bits set (R97). -/
theorem getLsbD_xorSelected_toy0 (v : Word64) (i : Fin 64) (js : List (Fin 64)) (hjs : js.Nodup) (acc : Word64) :
    (xorSelected p v js acc).getLsbD i.val = (acc.getLsbD i.val ^^ (decide (i ∈ js) && v.getLsbD i.val)) := by
  induction js generalizing acc with
  | nil => simp
  | cons j js ih =>
    obtain ⟨hj, hjs⟩ := List.nodup_cons.1 hjs
    rw [xorSelected_cons, ih hjs, BitVec.getLsbD_xor, getLsbD_select_toy0 htoy]
    by_cases hij : i = j
    · subst hij
      simp [hj]
    · simp [hij]

theorem linearWord_toy0 (v : Word64) : linearWord p v = v := by
  refine BitVec.eq_of_getLsbD_eq fun i hi => ?_
  have hbit := getLsbD_xorSelected_toy0 htoy v ⟨i, hi⟩ (List.finRange 64) (List.nodup_finRange 64) 0#64
  simpa [linearWord_eq] using hbit

theorem layerL_toy0 (b : Block) : layerL p b = b := by
  simp only [layerL_def, linearWord_toy0 htoy, unword_wordView]

theorem lpsx_toy0 (a k : Block) : lpsx p a k = layerX a k := by
  rw [lpsx_def, layerS_toy0 htoy, layerP_toy0 htoy, layerL_toy0 htoy]

theorem roundConst_toy0 (i : Nat) : p.roundConst.toList.getD i zeroBlock = zeroBlock := by
  obtain ⟨-, -, -, hconst⟩ := htoy
  by_cases hi : i < 12
  · rw [List.getD_eq_getElem _ _ (by simpa using hi), Vector.getElem_toList]
    exact hconst ⟨i, hi⟩
  · exact List.getD_eq_default _ _ (by simpa using hi)

theorem roundKey_toy0 (seed : Block) (i : Nat) : roundKey p seed i = seed := by
  induction i with
  | zero => rfl
  | succ i ih => rw [roundKey, roundConst_toy0 htoy, lpsx_toy0 htoy, layerX_zeroBlock, ih]

theorem keySchedule_toy0 (seed : Block) : keySchedule p seed = List.replicate 13 seed := by
  have hkey : roundKey p seed = fun _ => seed := funext (roundKey_toy0 htoy seed)
  rw [keySchedule_eq_map, hkey, List.map_const', List.length_range]

/-- Two rounds with one key cancel (R97). -/
theorem transformE_even_toy0 (seed m : Block) (n : Nat) : transformE p (List.replicate (2 * n) seed) m = m := by
  induction n with
  | zero => exact transformE_nil p m
  | succ n ih =>
    rw [Nat.mul_succ, List.replicate_succ, List.replicate_succ, transformE_cons, transformE_cons, lpsx_toy0 htoy,
      lpsx_toy0 htoy, layerX_cancel_right, ih]

theorem transformE_toy0 (seed m : Block) : transformE p (keySchedule p seed) m = layerX m seed := by
  rw [keySchedule_toy0 htoy, List.replicate_succ, transformE_cons, lpsx_toy0 htoy]
  exact transformE_even_toy0 htoy seed _ 6

theorem compress_toy0 (h m n : Block) : compress p h m n = n := by
  rw [compress_def, transformE_toy0 htoy, lpsx_toy0 htoy]
  have hcancel : layerX (layerX m (layerX h n)) h = layerX n m := by
    rw [layerX_comm h n, ← layerX_assoc, layerX_cancel_right, layerX_comm]
  rw [hcancel, layerX_cancel_right]

theorem digest_toy0 (msg : List Byte) : digest p msg = zeroBlock := by
  rw [digest, digestChain, finishChain, finalizeChain]
  exact compress_toy0 htoy _ _ zeroBlock

end IdentityTables

/-- Settles O53: every layer but X is the identity, 13 equal keys leave one exclusive or, and the digest ends with a
compression whose counter is ZERO. -/
theorem identityTablesDegenerate : Obligations.IdentityTablesDegenerate := fun _ htoy =>
  ⟨lpsx_toy0 htoy, keySchedule_toy0 htoy, transformE_toy0 htoy, compress_toy0 htoy, digest_toy0 htoy⟩

end Sys2Proof.Machine
end

section
/-! PROOFS. The command codec where a CMD write uses it: what the decoder answers on the encoding of a command, and in which
phases a command is legal (spec/30_encoding.md R70 to R74, spec/41_commands.md R126). -/

namespace Sys2Proof

theorem wellFormed_final {r : Nat} (hr : r < 64) : WellFormed (.final r) := decide_eq_true hr

/-- The encoding of a well-formed command decodes to it (R70 to R73). -/
theorem decode_encode {i : Instr} (hi : WellFormed i) : decode (encode i) = .ok i := by
  simp only [decode, opcField_encode, rsvdField_encode, remlenField_encode]
  cases i with
  | nop => rfl
  | init => rfl
  | absorb => rfl
  | final r =>
    have hr : r < 64 := of_decide_eq_true hi
    simp [Instr.opc, Instr.remlen, Nat.mod_eq_of_lt hr]

/-- Four bytes that are the lanes of a word, in window order, are that word (R52). -/
theorem wordOfLanes_laneByte (v : Word32) :
    wordOfLanes (laneByte v 0) (laneByte v 1) (laneByte v 2) (laneByte v 3) = v := by
  have hdigits := Machine.leNat_digits 4 v.toNat
  simp only [← Machine.laneByte_eq_ofNat] at hdigits
  apply BitVec.eq_of_toNat_eq
  rw [wordOfLanes, BitVec.toNat_ofNat]
  have hlt := v.isLt
  change leNat [laneByte v 0, laneByte v 1, laneByte v 2, laneByte v 3] = _ at hdigits
  omega

theorem decodeBytes_laneByte (v : Word32) : decodeBytes ((List.range 4).map (laneByte v)) = decode v :=
  congrArg decode (wordOfLanes_laneByte v)

/-- A table word that stands for a command is, cut to its bits, a word that decodes to it (R75). -/
theorem decode_of_decodeTableWord {nbits w : Nat} {i : Instr} (h : decodeTableWord nbits w = some i) :
    decode (BitVec.ofNat 32 (tableBits nbits w)) = .ok i := by
  unfold decodeTableWord at h
  split at h
  · cases h
  · rw [decodeBytes_laneByte] at h
    cases hd : decode (BitVec.ofNat 32 (tableBits nbits w)) with
    | error e => rw [hd] at h; cases h
    | ok j => rw [hd] at h; cases h; rfl

end Sys2Proof

namespace Sys2Proof.Machine

/-- A command is legal in a command phase only, and every command is legal in ABSORBING (R126). -/
theorem legal_iff (i : Instr) (p : Phase) :
    legal i p = true ↔ CommandPhase p ∧ (1 < i.opc.toNat → p = .absorbing) := by
  cases i <;> cases p <;> simp [legal, CommandPhase, Instr.opc]

theorem legal_absorbing (i : Instr) : legal i .absorbing = true :=
  (legal_iff i _).2 ⟨.inr (.inl rfl), fun _ => rfl⟩

/-- The phases are SELFTEST, CFG_FAULT and the command phases (R32). -/
theorem commandPhase_iff (p : Phase) : CommandPhase p ↔ p ≠ .selfTest ∧ p ≠ .cfgFault := by
  cases p <;> simp [CommandPhase]

end Sys2Proof.Machine
end

section
/-! PROOFS. The invariant, one operation at a time, and then along every step (spec/41_commands.md R120 to R132,
spec/60_exceptions.md R160, spec/70_reset_and_hazards.md R190 to R192). -/

namespace Sys2Proof.Machine

/-! ### The error capture -/

/-- The clauses of the invariant on the error capture, over its fields and the tables (R131, R160, R161, R191). -/
structure CaptureOk (p : Params) (err : Bool) (code : ErrorCode) (ovf : Bool) (info : Word32) : Prop where
  clear : err = false → code = .none ∧ ovf = false ∧ info = 0
  set : err = true → code ≠ .none
  cfg : code = .cfg → info = selfTestInfo p ∧ (bij8 p && bij6 p) = false

/-- The clauses on the error capture, of a state. -/
abbrev State.CaptureOk (s : State) : Prop := Machine.CaptureOk s.params s.err s.errCode s.errOvf s.errInfo

theorem captureOk_cleared (p : Params) : CaptureOk p false .none false 0 := ⟨fun _ => ⟨rfl, rfl, rfl⟩, nofun, nofun⟩

/-- Raising an error keeps the capture consistent, where a CFG error comes with the self-test's word and faulty tables. -/
theorem State.CaptureOk.raiseError {s : State} (h : s.CaptureOk) {code : ErrorCode} {info : Word32} (hn : code ≠ .none)
    (hc : code = .cfg → info = selfTestInfo s.params ∧ (bij8 s.params && bij6 s.params) = false) :
    (raiseError code info s).CaptureOk := by
  cases he : s.err with
  | false => rw [raiseError_first he]; exact ⟨nofun, fun _ => hn, hc⟩
  | true =>
    rw [raiseError_later he]
    exact ⟨fun hf => absurd he (ne_true_of_eq_false hf), fun _ => h.set he, h.cfg⟩

theorem State.CaptureOk.writeEventDone {s : State} (h : s.CaptureOk) (v : Word32) : (writeEventDone v s).CaptureOk := by
  unfold Machine.writeEventDone
  split <;> exact h

end Sys2Proof.Machine

namespace Sys2Proof

open Machine

theorem Inv.captureOk {s : Machine.State} (h : Inv s) : s.CaptureOk := ⟨h.captureClear, h.captureSet, h.captureCfg⟩

/-- An operation that leaves what the phase clauses speak of, and keeps the error capture consistent, keeps the invariant. -/
theorem Inv.of_sameCommand {s t : Machine.State} (h : Inv s) (hst : SameCommand s t) (hc : t.CaptureOk)
    (hd : s.cmdDone = false → t.cmdDone = false) : Inv t where
  pending := by rw [hst.pend, hst.phase]; exact h.pending
  captureClear := hc.clear
  captureSet := hc.set
  captureCfg := hc.cfg
  tablesGood := by rw [hst.phase, hst.params]; exact h.tablesGood
  tablesBad := by rw [hst.phase, hst.params]; exact h.tablesBad
  hashClear := by rw [hst.phase, hst.chain]; exact h.hashClear
  selfTestFresh := by
    rw [hst.phase, hst.mbuf]
    exact fun hp => (h.selfTestFresh hp).imp_right hd

/-! ### Resets, turns, replies, errors -/

theorem inv_resetCore (s : Machine.State) : Inv (resetCore s) where
  pending := nofun
  captureClear := (captureOk_cleared s.params).clear
  captureSet := nofun
  captureCfg := nofun
  tablesGood := nofun
  tablesBad := nofun
  hashClear := fun _ => rfl
  selfTestFresh := fun _ => ⟨rfl, rfl⟩

theorem Inv.setSchedule {s : Machine.State} (h : Inv s) (ts : List Turn) : Inv (setSchedule ts s) :=
  h.of_sameCommand (sameCommand_setSchedule ts s) h.captureOk id

theorem Inv.reply {s : Machine.State} (h : Inv s) (v : Word32) : Inv (reply v s) :=
  h.of_sameCommand (sameCommand_reply v s) h.captureOk id

/-- An error other than the self-test's keeps the invariant (R160). -/
theorem Inv.raiseError {s : Machine.State} (h : Inv s) {code : ErrorCode} (hn : code ≠ .none) (hc : code ≠ .cfg)
    (info : Word32) : Inv (raiseError code info s) :=
  h.of_sameCommand (sameCommand_raiseError code info s) (h.captureOk.raiseError hn fun he => absurd he hc)
    fun hd => by rw [raiseError_cmdDone, hd]

theorem Inv.writeEventDone {s : Machine.State} (h : Inv s) (v : Word32) : Inv (writeEventDone v s) :=
  h.of_sameCommand (sameCommand_writeEventDone v s) (h.captureOk.writeEventDone v) fun hd => by
    unfold Machine.writeEventDone
    split
    · rfl
    · exact hd

theorem Inv.clearError {s : Machine.State} (h : Inv s) : Inv (clearError s) :=
  h.of_sameCommand (sameCommand_clearError s) (captureOk_cleared s.params) id

theorem Inv.setEnables {s : Machine.State} (h : Inv s) (done err : Bool) : Inv (setEnables done err s) :=
  h.of_sameCommand ⟨rfl, rfl, rfl, rfl, rfl⟩ h.captureOk id

/-! ### Writes that BUSY = 0 lets through -/

/-- MBUF is ZERO in SELFTEST, where BUSY = 1 keeps the host from writing it (R132, R192). -/
theorem Inv.setMbufWord {s : Machine.State} (h : Inv s) (hp : s.phase ≠ .selfTest) (w : Fin 16) (v : Word32) :
    Inv (setMbufWord w v s) :=
  ⟨h.pending, h.captureClear, h.captureSet, h.captureCfg, h.tablesGood, h.tablesBad, h.hashClear,
    fun hs => absurd hs hp⟩

theorem Inv.setPending {s : Machine.State} (h : Inv s) {cmd : Word32} {i : Instr} (hd : decode cmd = .ok i)
    (hl : legal i s.phase = true) : Inv (setPending cmd s) :=
  ⟨fun _ hc => ⟨i, Option.some.inj hc ▸ hd, hl⟩, h.captureClear, h.captureSet, h.captureCfg, h.tablesGood, h.tablesBad,
    h.hashClear, h.selfTestFresh⟩

/-- Every effect of a host access keeps the invariant (R120, R128 to R132). -/
theorem Inv.accessEffect {s t : Machine.State} {a : Access} (h : Inv s) (ha : AccessEffect s a t) : Inv t := by
  cases ha with
  | served => exact h.reply _
  | readRefused => exact (h.raiseError (by decide) (by decide) _).reply 0
  | writeRefused _ _ _ _ info hn hc => exact h.raiseError hn hc info
  | softReset => exact inv_resetCore s
  | enables => exact h.setEnables _ _
  | eventKept => exact h.writeEventDone _
  | eventCleared => exact (h.writeEventDone _).clearError
  | stored _ _ _ _ _ hb => exact h.setMbufWord ((not_busy_iff s).1 hb).2 _ _
  | accepted _ _ _ _ _ _ _ hd hl => exact h.setPending hd hl

/-! ### Core steps -/

theorem commandPhase_phaseAfter (i : Instr) {p : Phase} (hp : CommandPhase p) : CommandPhase (phaseAfter i p) := by
  cases i with
  | nop => exact hp
  | init => exact .inr (.inl rfl)
  | absorb => exact hp
  | final => exact .inr (.inr rfl)

/-- The only completion that ends in IDLE is NOP's, in IDLE (R127). -/
theorem eq_nop_of_phaseAfter_idle {i : Instr} {p : Phase} (hl : legal i p = true) (h : phaseAfter i p = .idle) :
    i = .nop ∧ p = .idle := by
  cases i with
  | nop => exact ⟨rfl, h⟩
  | init => cases h
  | absorb =>
    obtain rfl : p = .idle := h
    cases hl
  | final => cases h

/-- The completion of a legal command keeps the invariant: it ends in a command phase, and in IDLE only with the hash state
as it was (R121 to R125). -/
theorem Inv.commit {s : Machine.State} (h : Inv s) {i : Instr} (hl : legal i s.phase = true) :
    Inv (commit (chainAfter i s) (phaseAfter i s.phase) s) := by
  have hp : CommandPhase s.phase := ((legal_iff i s.phase).1 hl).1
  obtain ⟨hself, hfault⟩ := (commandPhase_iff _).1 (commandPhase_phaseAfter i hp)
  exact {
    pending := nofun
    captureClear := h.captureClear
    captureSet := h.captureSet
    captureCfg := h.captureCfg
    tablesGood := fun _ => h.tablesGood hp
    tablesBad := fun hc => absurd hc hfault
    hashClear := by
      rintro (hc | hc | hc)
      · exact absurd hc hself
      · obtain ⟨rfl, hidle⟩ := eq_nop_of_phaseAfter_idle hl hc
        exact h.hashClear (.inr (.inl hidle))
      · exact absurd hc hfault
    selfTestFresh := fun hc => absurd hc hself }

/-- SELFTEST may be left with nothing pending, for a phase that fits the tables (R191). -/
theorem Inv.leaveSelfTest {s : Machine.State} (h : Inv s) (hs : s.phase = .selfTest) (hn : s.pend = none) {p : Phase}
    (hp : p ≠ .selfTest) (hgood : CommandPhase p → (bij8 s.params && bij6 s.params) = true)
    (hbad : p = .cfgFault → (bij8 s.params && bij6 s.params) = false) : Inv (setPhase p s) where
  pending := fun _ hc => nomatch hn.symm.trans hc
  captureClear := h.captureClear
  captureSet := h.captureSet
  captureCfg := h.captureCfg
  tablesGood := hgood
  tablesBad := hbad
  hashClear := fun _ => h.hashClear (.inl hs)
  selfTestFresh := fun hc => absurd hc hp

/-- The self-test end keeps the invariant; the error it raises is the one CFG error (R191). -/
theorem Inv.selfTestEnd {s : Machine.State} (h : Inv s) (hs : s.phase = .selfTest) (hn : s.pend = none) :
    Inv (selfTestEnd s) := by
  unfold Machine.selfTestEnd
  split
  next hgood => exact h.leaveSelfTest hs hn nofun (fun _ => hgood) nofun
  next hbad =>
    have hbad : (bij8 s.params && bij6 s.params) = false := Bool.eq_false_of_not_eq_true hbad
    have hfault : Inv (setPhase .cfgFault s) := h.leaveSelfTest hs hn nofun (by simp [CommandPhase]) fun _ => hbad
    exact hfault.of_sameCommand (sameCommand_raiseError _ _ _)
      (hfault.captureOk.raiseError nofun fun _ => ⟨rfl, hbad⟩) fun hd => by rw [raiseError_cmdDone, hd]

/-- A core step completes a command that is legal where it pends, ends the self-test, or does nothing (R121, R191, R180). -/
theorem Inv.coreStep {s t : Machine.State} (h : Inv s) (hc : coreStep s = .next t) : Inv t := by
  obtain ⟨cmd, i, hp, hd, rfl⟩ | ⟨hn, hs, rfl⟩ | ⟨-, -, rfl⟩ := coreStep_cases hc
  · obtain ⟨j, hj, hl⟩ := h.pending cmd hp
    obtain rfl : j = i := Except.ok.inj (hj.symm.trans hd)
    exact h.commit hl
  · exact h.selfTestEnd hs hn
  · exact h

/-- Settles O31: a step is a host access, a hardware reset or a core step, and each keeps the invariant. -/
theorem stepKeepsInvariant : Obligations.StepKeepsInvariant := by
  intro s t h hstep
  have h' := h.setSchedule s.schedule.tail
  obtain ⟨a, -, rfl⟩ | ⟨-, rfl⟩ | ⟨-, hc⟩ := step_cases hstep
  · exact h'.accessEffect (hostAccess_effect a _)
  · exact inv_resetCore _
  · exact h'.coreStep hc

end Sys2Proof
end

section
/-! PROOFS. The core's turn with a command pending, the phase machine, and a placed word (spec/41_commands.md R121, R127;
log entries 2 and 10). -/

namespace Sys2Proof.Machine

theorem nextTurn_core_iff (s : State) : s.nextTurn = .core ↔ s.schedule = [] ∨ ∃ ts, s.schedule = .core :: ts := by
  rw [State.nextTurn]
  rcases s.schedule with _ | ⟨t, ts⟩ <;> simp

theorem setSchedule_self {s : State} {ts : List Turn} (h : s.schedule = ts) : setSchedule ts s = s := by
  subst h
  rfl

/-- Settles O14: with the core's turn next, a step is the completion, and an empty schedule stays empty. -/
theorem stepRunsThePendingCommand : Obligations.StepRunsThePendingCommand := by
  intro s cmd i hp hd
  refine ⟨fun hs => ?_, fun ts hs => ?_⟩
  · rw [step_core_pending ((nextTurn_core_iff s).2 (.inl hs)) hp hd, hs, List.tail_nil, setSchedule_self hs]
  · rw [step_core_pending ((nextTurn_core_iff s).2 (.inr ⟨ts, hs⟩)) hp hd, hs]
    rfl

/-- Settles O11: the core's step is the commit of the pending command, which touches no part of the error capture. -/
theorem completionStepCommits : Obligations.CompletionStepCommits := by
  intro s cmd i hp hd hl
  have hself : phaseAfter i s.phase ≠ .selfTest :=
    ((commandPhase_iff _).1 (commandPhase_phaseAfter i ((legal_iff i _).1 hl).1)).1
  refine ⟨_, (coreStep_pending hp hd).trans (exec_eq i s), exec_eq i s, rfl, ?_, rfl, rfl, rfl, rfl, rfl⟩
  exact (not_busy_iff _).2 ⟨rfl, hself⟩

/-! ### The phase machine -/

@[simp] theorem writeEventDone_phase (v : Word32) (s : State) : (writeEventDone v s).phase = s.phase :=
  (sameCommand_writeEventDone v s).phase

/-- No access but a soft reset changes PHASE (R127). -/
theorem AccessEffect.phase_eq {s t : State} {a : Access} (h : AccessEffect s a t) (hr : ¬SoftReset a) :
    t.phase = s.phase := by
  cases h with
  | softReset size off v h hv =>
    obtain ⟨rfl, rfl⟩ := target_eq_ctrl h
    exact absurd ⟨v, rfl, hv⟩ hr
  | readRefused => exact raiseError_phase _ _ s
  | writeRefused => exact raiseError_phase _ _ s
  | eventKept => exact writeEventDone_phase _ s
  | eventCleared => exact writeEventDone_phase _ s
  | served => rfl
  | enables => rfl
  | stored => rfl
  | accepted => rfl

theorem selfTestEnd_phase (s : State) :
    (selfTestEnd s).phase = if bij8 s.params = true ∧ bij6 s.params = true then .idle else .cfgFault := by
  simp only [selfTestEnd, Bool.and_eq_true]
  split
  · rfl
  · exact raiseError_phase _ _ _

/-- A command pending in a state with the invariant is legal where it pends (R120). -/
theorem legal_of_pending {s : State} (h : Inv s) {i : Instr} (hw : WellFormed i) (hp : s.pend = some (encode i)) :
    legal i s.phase = true := by
  obtain ⟨j, hj, hl⟩ := h.pending _ hp
  obtain rfl : i = j := Except.ok.inj ((decode_encode hw).symm.trans hj)
  exact hl

/-- In SELFTEST nothing is pending (R120, R192). -/
theorem pend_eq_none_of_selfTest {s : State} (h : Inv s) (hs : s.phase = .selfTest) : s.pend = none := by
  rw [Option.eq_none_iff_forall_ne_some]
  intro cmd hp
  obtain ⟨i, -, hl⟩ := h.pending cmd hp
  exact ((commandPhase_iff _).1 ((legal_iff i _).1 hl).1).1 hs

/-- The core's turn with a well-formed command pending: the command is legal, and PHASE goes where it leads (R127). -/
theorem phase_of_core_pending {s t : State} (h : Inv s) (hn : s.nextTurn = .core) (ht : step s = .next t) {i : Instr}
    (hw : WellFormed i) (hp : s.pend = some (encode i)) : legal i s.phase = true ∧ t.phase = phaseAfter i s.phase := by
  rw [step_core_pending hn hp (decode_encode hw), exec_eq] at ht
  cases ht
  exact ⟨legal_of_pending h hw hp, rfl⟩

/-- Settles O33: an access keeps PHASE unless it resets, and the core's turn ends the self-test or completes a command that
is legal where it pends. -/
theorem phaseMachine : Obligations.PhaseMachine := by
  intro s t h ht
  refine ⟨fun hn => ?_, fun a hn hr => ?_, fun a hn hr => ?_, fun hn => ⟨fun hs => ?_, fun hp => ?_, fun hp => ?_,
    fun r hr hp => ?_, fun hp => ?_, fun hp hs => ?_⟩⟩
  · rw [step_eq, hn] at ht
    cases ht
    rfl
  · obtain ⟨v, rfl, hv⟩ := hr
    rw [step_eq, hn, runTurn, hostAccess_softReset hv] at ht
    cases ht
    rfl
  · rw [step_eq, hn] at ht
    cases ht
    exact (hostAccess_effect a _).phase_eq hr
  · have hp := pend_eq_none_of_selfTest h hs
    rw [step_eq, hn, runTurn, coreStep_selfTest (s := setSchedule s.schedule.tail s) hp hs] at ht
    cases ht
    exact selfTestEnd_phase _
  · obtain ⟨hl, hphase⟩ := phase_of_core_pending h hn ht (i := .init) rfl hp
    exact ⟨((legal_iff _ _).1 hl).1, hphase⟩
  · obtain ⟨hl, hphase⟩ := phase_of_core_pending h hn ht (i := .absorb) rfl hp
    have hs : s.phase = .absorbing := ((legal_iff _ _).1 hl).2 (by decide)
    exact ⟨hs, hphase.trans hs⟩
  · obtain ⟨hl, hphase⟩ := phase_of_core_pending h hn ht (wellFormed_final hr) hp
    exact ⟨((legal_iff _ _).1 hl).2 (show 1 < 3 by decide), hphase⟩
  · obtain ⟨hl, hphase⟩ := phase_of_core_pending h hn ht (i := .nop) rfl hp
    exact ⟨((legal_iff _ _).1 hl).1, hphase⟩
  · rw [step_eq, hn, runTurn, coreStep_quiet (s := setSchedule s.schedule.tail s) hp hs] at ht
    cases ht
    rfl

/-! ### A placed word -/

theorem nextTurn_withFetchWord (s : State) (nbits w : Nat) : (s.withFetchWord nbits w).nextTurn = .core := by
  rw [State.nextTurn, withFetchWord_schedule]
  rcases s.schedule with _ | ⟨_ | _ | _, _⟩ <;> rfl

/-- The phase a placed command is pending in: the present one, where the command is legal there, or ABSORBING. -/
theorem phaseFor_cases {cmd : Word32} {i : Instr} (hd : decode cmd = .ok i) (p : Phase) :
    legal i p = true ∧ phaseFor cmd p = p ∨ phaseFor cmd p = .absorbing := by
  unfold phaseFor
  rw [hd]
  by_cases hl : legal i p = true
  · exact .inl ⟨hl, if_pos hl⟩
  · exact .inr (if_neg hl)

end Sys2Proof.Machine

namespace Sys2Proof

open Machine

/-- A move from a command phase to ABSORBING, with any command pending there, keeps the invariant. -/
theorem Inv.withFetchWord {s : Machine.State} (h : Inv s) (hp : CommandPhase s.phase) {nbits w : Nat} {i : Instr}
    (hd : decode (BitVec.ofNat 32 (tableBits nbits w)) = .ok i) : Inv (s.withFetchWord nbits w) := by
  have hphase := phaseFor_cases hd s.phase
  have hlegal : legal i (s.withFetchWord nbits w).phase = true := by
    obtain ⟨hl, he⟩ | he := hphase <;> rw [withFetchWord_phase, he]
    · exact hl
    · exact legal_absorbing i
  have hself := (commandPhase_iff _).1 ((legal_iff i _).1 hlegal).1
  exact {
    pending := fun _ hc => ⟨i, Option.some.inj hc ▸ hd, hlegal⟩
    captureClear := h.captureClear
    captureSet := h.captureSet
    captureCfg := h.captureCfg
    tablesGood := fun _ => h.tablesGood hp
    tablesBad := fun hc => absurd hc hself.2
    hashClear := fun hc => by
      obtain ⟨-, he⟩ | he := hphase <;> rw [withFetchWord_phase, he] at hc
      · exact h.hashClear hc
      · simp at hc
    selfTestFresh := fun hc => absurd hc hself.1 }

/-- Settles O16: the placed word is pending, decodes, and has the core's turn next. -/
theorem placedWordRunsNext : Obligations.PlacedWordRunsNext := by
  intro s nbits w i h
  have hd := decode_of_decodeTableWord h
  have hstep := step_core_pending (nextTurn_withFetchWord s nbits w) (withFetchWord_pend s nbits w) hd
  refine ⟨hstep, fun hs => ?_, fun hinv hp => hinv.withFetchWord hp hd⟩
  have hempty : (s.withFetchWord nbits w).schedule = [] := by rw [withFetchWord_schedule, hs]; rfl
  rw [hstep, hempty, List.tail_nil, setSchedule_self hempty]

end Sys2Proof
end

section
/-! PROOFS. What the commands do: their completion steps and what these leave unchanged (spec/41_commands.md R121 to R125). -/

namespace Sys2Proof.Machine

theorem exec_nop (s : State) : exec .nop s = .next { s with pend := none, cmdDone := true } := rfl

theorem exec_init (s : State) : exec .init s =
    .next { s with h := zeroBlock, n := zeroBlock, sigma := zeroBlock, phase := .absorbing, pend := none, cmdDone := true } :=
  rfl

theorem exec_absorb (s : State) : exec .absorb s =
    .next { s with
      h := compress s.params s.h s.mbuf s.n
      n := add512 s.params.intOrder s.n (encodeCount s.params.intOrder 512)
      sigma := add512 s.params.intOrder s.sigma s.mbuf
      pend := none
      cmdDone := true } := rfl

/-- The hash state of FINAL after its padding branch, which an empty remainder skips (R125). -/
def chainPadded (p : Params) (c : Chain) (rem : List Byte) : Chain :=
  if rem.length = 0 then c else absorbRemainder p c rem

theorem chainPadded_of_length_zero {p : Params} {c : Chain} {rem : List Byte} (h : rem.length = 0) :
    chainPadded p c rem = c :=
  if_pos h

theorem chainPadded_of_length_pos {p : Params} {c : Chain} {rem : List Byte} (h : 0 < rem.length) :
    chainPadded p c rem = absorbRemainder p c rem :=
  if_neg h.ne'

theorem exec_final (r : Nat) (s : State) : exec (.final r) s =
    .next (commit (finalizeChain s.params (chainPadded s.params s.chain (remainder s.mbuf r))) .done s) := rfl

theorem remainder_length_of_lt (b : Block) {r : Nat} (hr : r < 64) : (remainder b r).length = r := by
  rw [remainder_length, Nat.min_eq_left hr.le]

/-- Settles O12: a completion is a commit, which writes H, N, SIGMA, PHASE, PEND and CMD_DONE only. -/
theorem completionFrame : Obligations.CompletionFrame := by
  intro i s t h
  rw [exec_eq] at h
  cases h
  refine ⟨rfl, rfl, rfl, rfl, rfl, rfl, rfl, rfl, rfl, rfl, fun _ => rfl, ?_, ?_⟩
  · rintro rfl
    exact ⟨rfl, rfl, rfl, rfl⟩
  · rintro rfl
    rfl

/-- The remainder of `r` bytes is determined by those bytes (R71). -/
theorem remainder_congr {a b : Block} {r : Nat} (h : ∀ k : Fin 64, k.val < r → a[k] = b[k]) :
    remainder a r = remainder b r := by
  refine List.ext_getElem (by simp only [remainder_length]) fun k hk _ => ?_
  rw [remainder_length, lt_min_iff] at hk
  simpa [remainder] using h ⟨k, hk.2⟩ hk.1

/-- Settles O13: FINAL `r` reads MBUF through its first `r` bytes only. -/
theorem finalIgnoresStaleBytes : Obligations.FinalIgnoresStaleBytes := by
  intro r s b _ h
  refine ⟨_, exec_final r s, (exec_final r _).trans ?_⟩
  rw [remainder_congr h]
  rfl

end Sys2Proof.Machine
end

section
/-! PROOFS. A CMD write: the acceptance tests in their order, and each command from its word to its completion
(spec/41_commands.md R120, R122 to R126). -/

namespace Sys2Proof.Machine

/-! ### The three answers of the decoder -/

theorem decode_opcode {cmd : Word32} (h : 3 < (opcField cmd).toNat) : decode cmd = .error .opcode := if_pos h

theorem decode_rsvd {cmd : Word32} (h : ¬3 < (opcField cmd).toNat)
    (hbits : rsvdField cmd ≠ 0 ∨ (opcField cmd ≠ 3 ∧ remlenField cmd ≠ 0)) : decode cmd = .error .rsvd :=
  (if_neg h).trans (if_pos hbits)

/-- A word that fails neither test decodes to a command with its OPC (R72, R74). -/
theorem exists_decode_eq_ok {cmd : Word32} (h : ¬3 < (opcField cmd).toNat)
    (hbits : ¬(rsvdField cmd ≠ 0 ∨ (opcField cmd ≠ 3 ∧ remlenField cmd ≠ 0))) :
    ∃ i, decode cmd = .ok i ∧ opcField cmd = i.opc := by
  obtain ⟨i, hd, hopc, -⟩ | ⟨hd, -⟩ := decode_cases cmd
  · exact ⟨i, hd, hopc⟩
  · rw [if_neg h] at hd
    rw [decode, if_neg h, if_neg hbits] at hd
    split_ifs at hd

/-! ### The acceptance check -/

theorem acceptCommand_faulted {s : State} (hp : s.phase = .cfgFault) (cmd : Word32) :
    acceptCommand cmd s = raiseError .faulted cmd s := if_pos hp

theorem acceptCommand_busy {s : State} (hp : s.phase ≠ .cfgFault) (hb : s.busy = true) (cmd : Word32) :
    acceptCommand cmd s = raiseError .busy cmd s := (if_neg hp).trans (if_pos hb)

/-- A word that decodes becomes pending where its command is legal, and is refused with SEQ elsewhere (R120, R126). -/
theorem acceptCommand_ok {s : State} {cmd : Word32} {i : Instr} (hp : s.phase ≠ .cfgFault) (hb : s.busy = false)
    (hd : decode cmd = .ok i) :
    acceptCommand cmd s = if legal i s.phase then { s with pend := some cmd } else raiseError .seq cmd s := by
  simp only [acceptCommand, if_neg hp, hb, Bool.false_eq_true, if_false, hd, setPending]

theorem commandPhase_of_not_busy {s : State} (hp : s.phase ≠ .cfgFault) (hb : s.busy = false) : CommandPhase s.phase :=
  (commandPhase_iff _).2 ⟨((not_busy_iff s).1 hb).2, hp⟩

theorem opc_one_lt_iff (i : Instr) : 1 < i.opc.toNat ↔ i.opc = 2 ∨ i.opc = 3 := by cases i <;> simp [Instr.opc]

/-- Settles O6: the decoder's tests are the OPCODE and RSVD tests, and in a command phase only ABSORB and FINAL can be
illegal. -/
theorem acceptanceChecksInOrder : Obligations.AcceptanceChecksInOrder := by
  intro s cmd
  rw [hostAccess_cmd]
  by_cases hp : s.phase = .cfgFault
  · rw [if_pos hp, acceptCommand_faulted hp]
  rw [if_neg hp]
  by_cases hb : s.busy = true
  · rw [if_pos hb, acceptCommand_busy hp hb]
  rw [if_neg hb]
  replace hb := Bool.eq_false_of_not_eq_true hb
  by_cases hopc : 3 < (opcField cmd).toNat
  · rw [acceptCommand_decodeError hp hb (decode_opcode hopc)]
    exact (if_pos hopc).symm
  refine Eq.trans ?_ (if_neg hopc).symm
  by_cases hbits : rsvdField cmd ≠ 0 ∨ (opcField cmd ≠ 3 ∧ remlenField cmd ≠ 0)
  · rw [acceptCommand_decodeError hp hb (decode_rsvd hopc hbits)]
    exact (if_pos hbits).symm
  refine Eq.trans ?_ (if_neg hbits).symm
  obtain ⟨i, hd, hi⟩ := exists_decode_eq_ok hopc hbits
  have hillegal : ¬legal i s.phase = true ↔ (opcField cmd = 2 ∨ opcField cmd = 3) ∧ s.phase ≠ .absorbing := by
    rw [legal_iff, and_iff_right (commandPhase_of_not_busy hp hb), opc_one_lt_iff, hi, Classical.not_imp]
  rw [acceptCommand_ok hp hb hd, ← ite_not]
  exact if_congr hillegal rfl rfl

/-! ### Each command -/

/-- A CMD write of a command's own word, and of other words with its OPC, in every state (R120, R126). -/
theorem issued_encode {i : Instr} (hw : WellFormed i) {ok : Phase → Prop}
    (hok : ∀ p, legal i p = true ↔ ok p) : Issued i.opc (encode i) ok := by
  intro s
  simp only [hostAccess_cmd]
  refine ⟨fun hp => acceptCommand_faulted hp _, fun hp hb => acceptCommand_busy hp hb _, fun hp hb hs => ?_,
    fun hp hb hs => ?_, fun w hp hb (hopc : opcField w = i.opc) hbits => ?_⟩
  · rw [acceptCommand_ok hp hb (decode_encode hw), if_pos ((hok s.phase).2 hs)]
  · have hcmd := commandPhase_of_not_busy hp hb
    have hill : ¬legal i s.phase = true := fun hl => hs ((hok s.phase).1 hl)
    refine ⟨by rw [acceptCommand_ok hp hb (decode_encode hw), if_neg hill], ?_⟩
    rw [legal_iff, and_iff_right hcmd, Classical.not_imp] at hill
    obtain ⟨hopc, habs⟩ := hill
    exact ⟨hcmd.imp_right fun h => h.resolve_left habs, hopc⟩
  · have hle : ¬3 < (opcField w).toNat := Nat.not_lt.2 (hopc ▸ i.opc_le)
    rw [← hopc] at hbits
    exact acceptCommand_decodeError hp hb (decode_rsvd hle hbits)

theorem legal_nop_iff (p : Phase) : legal .nop p = true ↔ CommandPhase p := by
  simp [legal_iff, Instr.opc]

theorem legal_init_iff (p : Phase) : legal .init p = true ↔ CommandPhase p := by simp [legal_iff, Instr.opc]

theorem legal_absorb_iff (p : Phase) : legal .absorb p = true ↔ p = .absorbing := by cases p <;> decide

theorem legal_final_iff (r : Nat) (p : Phase) : legal (.final r) p = true ↔ p = .absorbing := by
  cases p <;> simp [legal]

/-- Settles O7: the word 0 is NOP's, and its completion commits the hash state and the phase it finds. -/
theorem nopCompletes : Obligations.NopCompletes :=
  ⟨by decide, issued_encode (i := .nop) rfl legal_nop_iff, exec_nop⟩

/-- Settles O8: the word 1 is INIT's, and its completion commits the start state in ABSORBING. -/
theorem initCompletes : Obligations.InitCompletes :=
  ⟨by decide, issued_encode (i := .init) rfl legal_init_iff, exec_init⟩

/-- Settles O9: the word 2 is ABSORB's, and its completion commits one block compressed with the old N. -/
theorem absorbCompletes : Obligations.AbsorbCompletes :=
  ⟨by decide, issued_encode (i := .absorb) rfl legal_absorb_iff, exec_absorb⟩

/-- FINAL `r` is the word with REMLEN `r` over OPC 3 (R70, R72). -/
theorem encode_final {r : Nat} (hr : r < 64) : encode (.final r) = BitVec.ofNat 32 (3 + r * 2 ^ 8) := by
  apply BitVec.eq_of_toNat_eq
  simp [encode_toNat, Instr.opc, Instr.remlen]
  omega

/-- Settles O10: the chain after the padding branch gives the three values, and the finalization follows it. -/
theorem finalCompletes : Obligations.FinalCompletes := by
  intro r hr
  have hw := wellFormed_final hr
  rw [← encode_final hr]
  refine ⟨decode_encode hw, issued_encode hw (legal_final_iff r), fun s => ?_⟩
  have hlen := remainder_length_of_lt s.mbuf hr
  refine ⟨_, _, _, fun h0 => ?_, fun hpos => ?_, exec_final r s⟩
  · rw [chainPadded_of_length_zero (hlen.trans h0)]
    exact ⟨rfl, rfl, rfl⟩
  · rw [chainPadded_of_length_pos (hlen.symm ▸ hpos), absorbRemainder, hlen]
    exact ⟨rfl, rfl, rfl⟩

end Sys2Proof.Machine
end

section
/-! PROOFS. Accesses to the registers of the window: the writes to CTRL, EVENT and MBUF, and what every read returns
(spec/41_commands.md R128, R130 to R132). -/

namespace Sys2Proof.Machine

/-! ### Writes -/

theorem irq_setEnables (done err : Bool) (s : State) :
    (setEnables done err s).irq = ((s.cmdDone && done) || (s.err && err)) := rfl

/-- Settles O19: bit 31 chooses between the reset and the enables. -/
theorem ctrlWrite : Obligations.CtrlWrite := by
  refine fun s v => ⟨fun hv => hostAccess_softReset hv s, fun hv => ?_⟩
  have henables : hostAccess (.write .bits32 0x000 v) s = setEnables (v.getLsbD 0) (v.getLsbD 1) s := by
    rw [hostAccess_ctrl, writeCtrl, if_neg (ne_true_of_eq_false hv)]
  rw [henables]
  exact ⟨rfl, irq_setEnables _ _ s⟩

theorem writeEventDone_eq (v : Word32) (s : State) :
    writeEventDone v s = { s with cmdDone := s.cmdDone && !v.getLsbD 0 } := by
  unfold writeEventDone
  cases v.getLsbD 0 <;> simp [clearDone]

/-- Settles O20: bit 0 acts on CMD_DONE, bit 1 on the four parts of the error capture. -/
theorem eventWrite : Obligations.EventWrite := by
  intro s v
  rw [hostAccess_event, writeEvent, writeEventDone_eq]
  cases v.getLsbD 1 <;> simp [clearError]

theorem writeMbuf_busy {s : State} (hb : s.busy = true) (off : Offset) (w : Fin 16) (v : Word32) :
    writeMbuf off w v s = raiseError .wbusy (accessInfo true .bits32 off) s := if_pos hb

theorem writeMbuf_not_busy {s : State} (hb : s.busy = false) (off : Offset) (w : Fin 16) (v : Word32) :
    writeMbuf off w v s = { s with mbuf := setBlockWord s.mbuf w v } := if_neg (ne_true_of_eq_false hb)

/-- The four bytes of the word written (R54). -/
theorem setBlockWord_lane (b : Block) (w : Fin 16) (v : Word32) (k : Fin 4) :
    (setBlockWord b w v)[4 * w.val + k.val] = laneByte v k.val := by
  rw [setBlockWord_getElem, if_pos (by omega), Nat.mul_add_mod, Nat.mod_eq_of_lt k.isLt]

/-- The bytes of the other words (R54). -/
theorem setBlockWord_other {b : Block} {w : Fin 16} {v : Word32} {j : Fin 64} (h : j.val / 4 ≠ w.val) :
    (setBlockWord b w v)[j] = b[j] :=
  (setBlockWord_getElem b w v j.val j.isLt).trans (if_neg h)

/-- Settles O21: BUSY chooses between the refusal and the store of one word. -/
theorem mbufWrite : Obligations.MbufWrite := by
  intro s w v
  rw [hostAccess_mbuf]
  exact ⟨fun hb => writeMbuf_busy hb _ w v, fun hb => ⟨setBlockWord s.mbuf w v, writeMbuf_not_busy hb _ w v,
    setBlockWord_lane s.mbuf w v, fun _ => setBlockWord_other⟩⟩

/-! ### Fields of a register word as a sum -/

theorem place_eq_ofNat {w : Nat} (k : Nat) (x : BitVec w) : place k x = BitVec.ofNat 32 (2 ^ k * x.toNat) := by
  apply BitVec.eq_of_toNat_eq
  rw [place, BitVec.toNat_shiftLeft, BitVec.toNat_setWidth, BitVec.toNat_ofNat, Nat.shiftLeft_eq, Nat.mul_comm,
    Nat.mul_mod_mod]

/-- A field placed above a number of fewer bits adds to it. -/
theorem ofNat_or_place {w a k : Nat} (x : BitVec w) (ha : a < 2 ^ k) :
    BitVec.ofNat 32 a ||| place k x = BitVec.ofNat 32 (a + 2 ^ k * x.toNat) := by
  rw [place_eq_ofNat, ← BitVec.ofNat_or, Nat.or_comm, ← Nat.two_pow_add_eq_or_of_lt ha, Nat.add_comm]

theorem ctrlWord_eq_sum (s : State) : ctrlWord s = BitVec.ofNat 32 (s.ieDone.toNat + 2 * s.ieErr.toNat) := by
  unfold ctrlWord
  cases s.ieDone <;> cases s.ieErr <;> rfl

theorem eventWord_eq_sum (s : State) : eventWord s = BitVec.ofNat 32 (s.cmdDone.toNat + 2 * s.err.toNat) := by
  unfold eventWord
  cases s.cmdDone <;> cases s.err <;> rfl

theorem configWord_eq_sum (p : Params) : configWord p = BitVec.ofNat 32 ((if p.intOrder = .le then 1 else 0)
    + 2 * (match p.pad2Order with | .p0ThenP1 => 0 | .p1ThenP0 => 1 | .p0Only => 2)) := by
  unfold configWord
  cases p.intOrder <;> cases p.pad2Order <;> rfl

/-- The fields of STATUS do not overlap, so the word is their sum (R31). -/
theorem statusWord_eq_sum (s : State) : statusWord s = BitVec.ofNat 32 (s.busy.toNat + 2 * (phaseCode s.phase).toNat
    + 2 ^ 8 * (errorNumber s.errCode).toNat + 2 ^ 12 * s.errOvf.toNat + 2 ^ 13 * s.irq.toNat) := by
  have hbusy := s.busy.toNat_le
  have hphase := phaseCode_le s.phase
  have herr := errorNumber_le s.errCode
  have hovf := s.errOvf.toNat_le
  rw [statusWord_eq_fields, place_eq_ofNat, ofNat_or_place, ofNat_or_place, ofNat_or_place, ofNat_or_place]
  all_goals simp only [BitVec.toNat_ofBool]
  · simp
  all_goals omega

theorem wordOfLanes_eq_sum (b0 b1 b2 b3 : Byte) : wordOfLanes b0 b1 b2 b3 =
    BitVec.ofNat 32 (b0.toNat + b1.toNat * 2 ^ 8 + b2.toNat * 2 ^ 16 + b3.toNat * 2 ^ 24) := by
  rw [wordOfLanes]
  congr 1
  simp only [leNat_cons, leNat_nil]
  omega

theorem blockWord_eq_wordNumber (b : Block) (w : Fin 16) : blockWord b w = BitVec.ofNat 32 (wordNumber b w) :=
  wordOfLanes_eq_sum _ _ _ _

/-! ### Reads -/

theorem served_of_target {s : State} {off v : Nat} {r : Reg} (h : target .bits32 (BitVec.ofNat 12 off) = some r)
    (hr : readReg r s = BitVec.ofNat 32 v) : Served s off v := by
  rw [Served, hostAccess, busRead, h, ← hr]
  rfl

theorem regAt_unmapped {off : Offset} (h : Unmapped off) : regAt off = none := by
  obtain ⟨hlo, hhi⟩ | hlo := h <;> simp (disch := omega) only [regAt, if_neg, if_pos]

/-- A misdirected access reaches no register (R51, R56). -/
theorem target_of_misdirected {size : AccessSize} {off : Offset} (h : Misdirected size off) : target size off = none := by
  unfold target
  split
  next hok =>
    obtain hsize | halign | hun := h
    · exact absurd hok.1 hsize
    · exact absurd hok.2 halign
    · exact regAt_unmapped hun
  next => rfl

theorem busRead_of_misdirected {size : AccessSize} {off : Offset} (h : Misdirected size off) (s : State) :
    busRead size off s = reply 0 (raiseError .bus (accessInfo false size off) s) := by
  rw [busRead, target_of_misdirected h]

/-- Settles O17: every mapped offset reaches its register, whose word is the sum of its fields, and a misdirected access
reaches none. -/
theorem registerReads : Obligations.RegisterReads := by
  intro s
  refine ⟨served_of_target (r := .ctrl) (by decide) (ctrlWord_eq_sum s),
    served_of_target (r := .status) (by decide) (statusWord_eq_sum s),
    served_of_target (r := .event) (by decide) (eventWord_eq_sum s), served_of_target (r := .errInfo) (by decide) ?_,
    served_of_target (r := .cmd) (by decide) rfl,
    served_of_target (r := .config) (by decide) (configWord_eq_sum s.params), fun w => ?_, fun size off h => ?_⟩
  · simp [readReg]
  · exact ⟨served_of_target (target_mbuf w) (blockWord_eq_wordNumber s.mbuf w),
      served_of_target (target_h w) (blockWord_eq_wordNumber s.h w),
      served_of_target (target_n w) (blockWord_eq_wordNumber s.n w),
      served_of_target (target_sigma w) (blockWord_eq_wordNumber s.sigma w)⟩
  · rw [hostAccess, busRead_of_misdirected h, reply, raiseError_replies]

end Sys2Proof.Machine
end

section
/-! PROOFS. The reference digest function: the blocks it takes from a message, the counter it ends with, and the part of
the padding order that its checksum sees (spec/42_digest.md R150, R151, R155, R157). -/

namespace Sys2Proof.Machine

/-! ### The blocks of a message -/

theorem fullBlocks_length (msg : List Byte) : (fullBlocks msg).length = msg.length / 64 := by simp [fullBlocks]

theorem messageRemainder_length (msg : List Byte) : (messageRemainder msg).length = msg.length % 64 := by
  rw [messageRemainder, List.length_take, Nat.min_eq_left (Nat.mod_le _ _)]

theorem fullBlocks_getD (msg : List Byte) {k : Nat} (hk : k < msg.length / 64) :
    (fullBlocks msg).getD k zeroBlock = fullBlock msg (k + 1) := by
  rw [List.getD_eq_getElem _ _ ((fullBlocks_length msg).symm ▸ hk)]
  simp [fullBlocks]

/-- A full block holds its bytes in message order (R151). -/
theorem fullBlock_toList_getD (msg : List Byte) (k : Nat) {j : Nat} (hj : j < 64) :
    (fullBlock msg k).toList.getD j 0 = msg.getD (msg.length - 64 * k + j) 0 := by
  rw [List.getD_eq_getElem _ _ (by simpa using hj), Vector.getElem_toList, fullBlock, blockOfBytes_getElem]
  simp [List.getD_eq_getElem?_getD, List.getElem?_drop]

/-- Settles O54: full block `k + 1` is read at its own place in the message, and the fold over the full blocks comes before
the remainder. -/
theorem tailFirstBlocks : Obligations.TailFirstBlocks := by
  intro msg
  refine ⟨fullBlocks_length msg, fun k j hk hj => ?_, rfl, fun _ => rfl⟩
  rw [fullBlocks_getD msg hk, fullBlock_toList_getD msg (k + 1) hj]

/-- Settles O55: with no full block and an empty remainder only the finalization is left. -/
theorem emptyDigest : Obligations.EmptyDigest := fun _ => rfl

/-! ### The final counter -/

theorem encodeCount_mod (o : IntOrder) (v : Nat) : encodeCount o (v % 2 ^ 512) = encodeCount o v := by
  rw [encodeCount, encodeCount, Nat.mod_mod]

/-- Counter increments add up (R93, R97). -/
theorem add512_encodeCount (o : IntOrder) (u v : Nat) :
    add512 o (encodeCount o u) (encodeCount o v) = encodeCount o (u + v) := by
  apply intView_injective o
  rw [intView_add512, intView_encodeCount, intView_encodeCount, intView_encodeCount, ← Nat.add_mod]

/-- Every full block advances the counter by 512 bits (R124). -/
theorem foldl_absorbBlock_n (p : Params) (bs : List Block) (c : Chain) :
    (bs.foldl (absorbBlock p) c).n = add512 p.intOrder c.n (encodeCount p.intOrder (512 * bs.length)) := by
  induction bs generalizing c with
  | nil => simp
  | cons b bs ih =>
    rw [List.foldl_cons, ih, absorbBlock, add512_assoc, add512_encodeCount, List.length_cons, Nat.mul_succ, Nat.add_comm]

/-- The padding branch advances the counter by the bits of the remainder, by 0 for an empty one (R125). -/
theorem finishChain_n (p : Params) (c : Chain) (rem : List Byte) :
    (finishChain p c rem).n = add512 p.intOrder c.n (encodeCount p.intOrder (8 * rem.length)) := by
  rw [finishChain, finalizeChain]
  split
  next hzero => rw [hzero, encodeCount_zero, add512_zeroBlock]
  next => rfl

theorem digestChain_n (p : Params) (msg : List Byte) :
    (digestChain p msg).n = encodeCount p.intOrder (8 * msg.length) := by
  have hbits : 512 * (msg.length / 64) + 8 * (msg.length % 64) = 8 * msg.length := by omega
  rw [digestChain, finishChain_n, foldl_absorbBlock_n, chainStart, ← encodeCount_zero p.intOrder, add512_encodeCount,
    add512_encodeCount, fullBlocks_length, messageRemainder_length, Nat.zero_add, hbits]

/-! ### The final checksum -/

theorem foldl_absorbBlock_sigma (p : Params) (bs : List Block) (c : Chain) :
    (bs.foldl (absorbBlock p) c).sigma = bs.foldl (add512 p.intOrder) c.sigma := by
  induction bs generalizing c with
  | nil => rfl
  | cons b bs ih => rw [List.foldl_cons, ih, List.foldl_cons, absorbBlock]

theorem finishChain_sigma (p : Params) (c : Chain) (rem : List Byte) :
    (finishChain p c rem).sigma =
      if rem.length = 0 then c.sigma else (padBlocks p.pad2Order rem).foldl (add512 p.intOrder) c.sigma := by
  rw [finishChain, finalizeChain]
  split <;> rfl

/-- A remainder of up to 55 bytes pads to one block, whatever PAD2_ORDER is (R95). -/
theorem padBlocks_of_length_le (o : Pad2Order) {rem : List Byte} (h : rem.length ≤ 55) :
    padBlocks o rem = [blockOfBytes (pad rem)] := by
  have hlen : (pad rem).length = 64 := (pad_length (h.trans (by decide))).trans (paddedLength_le h)
  simp only [padBlocks, if_pos hlen]

/-- P0_THEN_P1 and P1_THEN_P0 take the same blocks (R95). -/
theorem padBlocks_perm_p0ThenP1 {o : Pad2Order} (ho : o ≠ .p0Only) (rem : List Byte) :
    (padBlocks o rem).Perm (padBlocks .p0ThenP1 rem) := by
  cases o with
  | p0ThenP1 => exact .refl _
  | p1ThenP0 =>
    simp only [padBlocks]
    split
    · exact .refl _
    · exact .swap _ _ _
  | p0Only => exact absurd rfl ho

theorem padBlocks_perm {o o' : Pad2Order} {rem : List Byte} (h : rem.length < 56 ∨ (o ≠ .p0Only ∧ o' ≠ .p0Only)) :
    (padBlocks o rem).Perm (padBlocks o' rem) := by
  obtain hshort | ⟨ho, ho'⟩ := h
  · have hle := Nat.le_of_lt_succ hshort
    rw [padBlocks_of_length_le o hle, padBlocks_of_length_le o' hle]
  · exact (padBlocks_perm_p0ThenP1 ho rem).trans (padBlocks_perm_p0ThenP1 ho' rem).symm

/-- A checksum does not depend on the order in which its blocks are added (R97). -/
theorem foldl_add512_perm (i : IntOrder) {bs bs' : List Block} (h : bs.Perm bs') (c : Block) :
    bs.foldl (add512 i) c = bs'.foldl (add512 i) c :=
  have : RightCommutative (add512 i) := ⟨fun a b c => by rw [add512_assoc, add512_comm i b, ← add512_assoc]⟩
  h.foldl_eq c

/-- Settles O56: the counter adds up the bits of all blocks, and the two settings add the same padded blocks. -/
theorem finalCounter : Obligations.FinalCounter := by
  refine fun p msg => ⟨?_, fun o h => ?_⟩
  · rw [digestChain_n, encodeCount_mod]
  · rw [← messageRemainder_length] at h
    have hperm : (padBlocks o (messageRemainder msg)).Perm (padBlocks p.pad2Order (messageRemainder msg)) :=
      padBlocks_perm (h.imp_right And.symm)
    simp only [digestChain, finishChain_sigma, foldl_absorbBlock_sigma, foldl_add512_perm p.intOrder hperm]

end Sys2Proof.Machine
end

section
/-! PROOFS. Sequences of turns: where they lead, and the turns the host protocol is made of (spec/20_memory.md R63,
spec/30_encoding.md R77, R78). -/

namespace Sys2Proof.Machine

/-! ### Paths -/

/-- The turn leads from `x` to `y`, whatever turns follow it. -/
def Moves (t : Turn) (x y : State) : Prop := ∀ rest, runTurn t (setSchedule rest x) = .next (setSchedule rest y)

/-- The turns lead from one state to another, and `W` relates the states before and after every core turn among them. -/
inductive Path (W : State → State → Prop) : State → List Turn → State → Prop where
  | nil (x : State) : Path W x [] x
  | cons {t : Turn} {ts : List Turn} {x y z : State} (h : Moves t x y) (hw : t = .core → W x y) (hp : Path W y ts z) :
      Path W x (t :: ts) z

/-- No claim about the core's turns. -/
def AnyTurn (_ _ : State) : Prop := True

/-- The core's turn raises `irq` (R38, R172). -/
def RaisesIrq (x y : State) : Prop := x.irq = false ∧ y.irq = true

section Paths
variable {W : State → State → Prop} {x y z : State} {ts us : List Turn}

theorem Path.append (h : Path W x ts y) (k : Path W y us z) : Path W x (ts ++ us) z := by
  induction h with
  | nil => exact k
  | cons h hw _ ih => exact .cons h hw (ih k)

theorem Path.anyTurn (h : Path W x ts y) : Path AnyTurn x ts y := by
  induction h with
  | nil => exact .nil _
  | cons h _ _ ih => exact .cons h (fun _ => trivial) ih

theorem path_core (h : Moves .core x y) (hw : W x y) : Path W x [.core] y := .cons h (fun _ => hw) (.nil y)

theorem path_access {a : Access} (h : Moves (.access a) x y) : Path W x [.access a] y := .cons h nofun (.nil y)

theorem step_of_moves {t : Turn} (h : Moves t x y) (rest : List Turn) :
    step (setSchedule (t :: rest) x) = .next (setSchedule rest y) := h rest

/-- Turns in front of the schedule are run one after the other (R63). -/
theorem Path.run (h : Path W x ts y) (rest : List Turn) :
    Host.Core.run core ts.length (setSchedule (ts ++ rest) x) = .next (setSchedule rest y) := by
  induction h with
  | nil => exact run_zero _
  | cons h _ _ ih => exact (run_succ _ (step_of_moves h _)).trans ih

/-- A core turn on the way is reached by a run, and `W` relates the states before and after it. -/
theorem Path.core_turn (h : Path W x ts y) (rest : List Turn) {k : Nat} (hk : ts[k]? = some .core) :
    ∃ (u v : State) (rest' : List Turn),
      Host.Core.run core k (setSchedule (ts ++ rest) x) = .next (setSchedule (.core :: rest') u) ∧ Moves .core u v ∧
        W u v := by
  induction h generalizing k with
  | nil => cases hk
  | @cons t ts x y z h hw _ ih =>
    cases k with
    | zero =>
      obtain rfl : t = .core := Option.some.inj hk
      exact ⟨x, y, ts ++ rest, run_zero _, h, hw rfl⟩
    | succ k =>
      obtain ⟨u, v, rest', hrun, huv⟩ := ih hk
      exact ⟨u, v, rest', (run_succ k (step_of_moves h _)).trans hrun, huv⟩

end Paths

/-! ### Single turns -/

theorem readReg_setSchedule (r : Reg) (ts : List Turn) (x : State) : readReg r (setSchedule ts x) = readReg r x := by
  cases r <;> rfl

theorem moves_rd {off : Offset} {r : Reg} (h : target .bits32 off = some r) (x : State) :
    Moves (rd off) x (reply (readReg r x) x) := by
  intro rest
  simp only [rd, runTurn, hostAccess, busRead, h, readReg_setSchedule]
  rfl

theorem moves_clearEvents (x : State) : Moves clearEvents x (clearError (clearDone x)) := fun rest =>
  congrArg Host.Outcome.next (hostAccess_clearEvents (setSchedule rest x))

theorem moves_enableDoneIrq (ieErr : Bool) (x : State) : Moves (enableDoneIrq ieErr) x (setEnables true ieErr x) :=
  fun rest => congrArg Host.Outcome.next (hostAccess_enableDoneIrq ieErr (setSchedule rest x))

theorem moves_wr_mbuf {x : State} (hb : x.busy = false) (w : Fin 16) (v : Word32) :
    Moves (wr (mbufOffset w.val) v) x (setMbufWord w v x) := fun rest =>
  congrArg Host.Outcome.next ((hostAccess_mbuf w v _).trans (writeMbuf_not_busy (s := setSchedule rest x) hb _ w v))

/-- In a phase in which a command is legal the core is ready for it, unless one is pending (R126). -/
theorem not_busy_of_legal {x : State} {i : Instr} (hn : x.pend = none) (hl : legal i x.phase = true) :
    x.busy = false :=
  (not_busy_iff x).2 ⟨hn, ((commandPhase_iff _).1 ((legal_iff i _).1 hl).1).1⟩

/-- A legal command becomes pending (R120). -/
theorem moves_issue {x : State} {i : Instr} (hw : WellFormed i) (hn : x.pend = none) (hl : legal i x.phase = true) :
    Moves (issue i) x (setPending (encode i) x) := by
  intro rest
  have hfault : x.phase ≠ .cfgFault := ((commandPhase_iff _).1 ((legal_iff i _).1 hl).1).2
  have haccept := acceptCommand_ok (s := setSchedule rest x) hfault (not_busy_of_legal hn hl) (decode_encode hw)
  rw [setSchedule_phase, if_pos hl] at haccept
  exact congrArg Host.Outcome.next ((hostAccess_cmd _ _).trans haccept)

/-- The core's turn completes a pending command (R121). -/
theorem moves_core_pending {x : State} {cmd : Word32} {i : Instr} (hp : x.pend = some cmd) (hd : decode cmd = .ok i) :
    Moves .core x (commit (chainAfter i x) (phaseAfter i x.phase) x) := by
  intro rest
  have hchain : chainAfter i (setSchedule rest x) = chainAfter i x := (sameCommand_setSchedule rest x).chainAfter_eq i
  refine (coreStep_pending (s := setSchedule rest x) hp hd).trans ?_
  rw [exec_eq, hchain]
  rfl

/-- With nothing to do the core's turn changes nothing (R180). -/
theorem moves_core_quiet {x : State} (hn : x.pend = none) (hp : x.phase ≠ .selfTest) : Moves .core x x :=
  fun rest => coreStep_quiet (s := setSchedule rest x) hn hp

/-! ### Reads -/

/-- The same state after further reads, which returned `ws`. -/
def heard (ws : List Word32) (x : State) : State := { x with replies := x.replies ++ ws }

theorem heard_nil (x : State) : heard [] x = x := by rw [heard, List.append_nil]

theorem heard_heard (us ws : List Word32) (x : State) : heard ws (heard us x) = heard (us ++ ws) x := by
  simp only [heard, List.append_assoc]

theorem sameCommand_heard (ws : List Word32) (x : State) : SameCommand x (heard ws x) := ⟨rfl, rfl, rfl, rfl, rfl⟩

theorem path_rd {W : State → State → Prop} {off : Offset} {r : Reg} (h : target .bits32 off = some r) (x : State) :
    Path W x [rd off] (heard [readReg r x] x) :=
  path_access (moves_rd h x)

theorem target_status : target .bits32 0x004 = some .status := by decide

/-- Polling STATUS changes no register (R78, R128). -/
theorem path_polls (W : State → State → Prop) (n : Nat) (x : State) :
    ∃ ws, Path W x (List.replicate n (rd 0x004)) (heard ws x) := by
  induction n with
  | zero => exact ⟨[], (heard_nil x).symm ▸ .nil x⟩
  | succ n ih =>
    obtain ⟨ws, h⟩ := ih
    rw [List.replicate_succ']
    exact ⟨_, heard_heard ws _ x ▸ h.append (path_rd target_status _)⟩

/-- WAIT is the core's turn among reads of STATUS (R78; log entry 19). -/
theorem path_waitTurns {x y : State} (n : Nat) (h : ∀ ws, Moves .core (heard ws x) (heard ws y)) :
    ∃ ws, Path AnyTurn x (waitTurns n) (heard ws y) := by
  obtain ⟨ws, hpolls⟩ := path_polls AnyTurn n x
  have hlast := (path_core (W := AnyTurn) (h ws) trivial).append (path_rd target_status (heard ws y))
  exact ⟨_, heard_heard ws _ y ▸ hpolls.append hlast⟩

/-! ### A block as the words the bus carries -/

/-- A word's lanes are the bytes it was put together from (R52). -/
theorem laneByte_wordOfLanes (b0 b1 b2 b3 : Byte) (k : Nat) :
    laneByte (wordOfLanes b0 b1 b2 b3) k = [b0, b1, b2, b3].getD k 0 := by
  have hlt : leNat [b0, b1, b2, b3] < 256 ^ 4 := leNat_lt [b0, b1, b2, b3]
  have hmod : leNat [b0, b1, b2, b3] % 2 ^ 32 = leNat [b0, b1, b2, b3] := Nat.mod_eq_of_lt hlt
  rw [laneByte_eq_ofNat, wordOfLanes, BitVec.toNat_ofNat, hmod, ofNat_leNat_div]

/-- Byte `4w + k` of a block is lane `k` of its word `w` (R54). -/
theorem laneByte_blockWord (b : Block) (w : Fin 16) (k : Fin 4) :
    laneByte (blockWord b w) k.val = b[4 * w.val + k.val] := by
  rw [blockWord, laneByte_wordOfLanes]
  match k with
  | 0 | 1 | 2 | 3 => rfl

theorem laneByte_blockWord_div (b : Block) {w : Fin 16} {i : Nat} (hi : i < 64) (hw : i / 4 = w.val) :
    laneByte (blockWord b w) (i % 4) = b[i] := by
  have h := laneByte_blockWord b w ⟨i % 4, Nat.mod_lt i (by decide)⟩
  simpa only [← hw, Nat.div_add_mod] using h

theorem ofNat_sixteen_val {w : Nat} (h : w < 16) : (Fin.ofNat 16 w).val = w := Nat.mod_eq_of_lt h

/-- The words READH returns for a hash value (R78). -/
def hashWords (b : Block) : List Word32 := (List.range 16).map fun w => blockWord b (Fin.ofNat 16 w)

theorem hashWords_length (b : Block) : (hashWords b).length = 16 := by simp [hashWords]

theorem blockOfWords_hashWords (b : Block) : blockOfWords (hashWords b) = b := by
  ext i hi : 1
  have hw : i / 4 < 16 := by omega
  have hword : (hashWords b).getD (i / 4) 0 = blockWord b (Fin.ofNat 16 (i / 4)) := by
    rw [List.getD_eq_getElem _ _ ((hashWords_length b).symm ▸ hw)]
    simp [hashWords]
  rw [blockOfWords, Vector.getElem_ofFn, hword, laneByte_blockWord_div b hi (ofNat_sixteen_val hw).symm]

/-- READH reads the 16 words of H (R78). -/
theorem path_readHash (W : State → State → Prop) (x : State) : Path W x readHash (heard (hashWords x.h) x) := by
  have hread (n : Nat) (hn : n ≤ 16) : Path W x ((List.range n).map fun w => rd (hOffset w))
      (heard ((List.range n).map fun w => blockWord x.h (Fin.ofNat 16 w)) x) := by
    induction n with
    | zero => exact (heard_nil x).symm ▸ .nil x
    | succ n ih =>
      have hval := ofNat_sixteen_val hn
      have htarget : target .bits32 (hOffset n) = some (.h (Fin.ofNat 16 n)) := by
        have h := target_h (Fin.ofNat 16 n)
        rwa [hval] at h
      rw [List.range_succ, List.map_append, List.map_append, List.map_singleton, List.map_singleton, ← heard_heard]
      exact (ih (Nat.le_of_succ_le hn)).append (path_rd htarget _)
  exact hread 16 (Nat.le_refl 16)

/-- The host puts H together from the words it read last (R78). -/
theorem blockOfWords_last_heard (b : Block) (x : State) :
    blockOfWords ((heard (hashWords b) x).replies.drop ((heard (hashWords b) x).replies.length - 16)) = b := by
  have hstart : (x.replies ++ hashWords b).length - 16 = x.replies.length := by
    rw [List.length_append, hashWords_length, Nat.add_sub_cancel]
  rw [heard, hstart, List.drop_left, blockOfWords_hashWords]

/-! ### Loading MBUF -/

/-- The block `old` after its first `count` words are written with those of `b` (R54). It is irreducible as the
datapath's block functions are: no proof is to evaluate its 64 bytes. -/
@[irreducible] def overlay (b old : Block) (count : Nat) : Block :=
  Vector.ofFn fun i => if i.val < 4 * count then b[i] else old[i]

@[simp] theorem overlay_getElem (b old : Block) (count i : Nat) (hi : i < 64) :
    (overlay b old count)[i] = if i < 4 * count then b[i] else old[i] := by
  simp [overlay]

theorem overlay_zero (b old : Block) : overlay b old 0 = old := by ext i hi : 1; simp

theorem overlay_full (b old : Block) : overlay b old 16 = b := by
  ext i hi : 1
  rw [overlay_getElem, if_pos hi]

theorem setBlockWord_overlay (b old : Block) (w : Fin 16) :
    setBlockWord (overlay b old w.val) w (blockWord b w) = overlay b old (w.val + 1) := by
  ext i hi : 1
  rw [setBlockWord_getElem, overlay_getElem, overlay_getElem]
  by_cases hw : i / 4 = w.val
  · rw [if_pos hw, if_pos (by omega), laneByte_blockWord_div b hi hw]
  · have hiff : i < 4 * w.val ↔ i < 4 * (w.val + 1) := by omega
    rw [if_neg hw, if_congr hiff rfl rfl]

/-- The word writes of LOADBLK and LOADREM store their words and change no other register (R78, R132). -/
theorem path_loadWords (W : State → State → Prop) {x : State} (hb : x.busy = false) (b : Block) {count : Nat}
    (hc : count ≤ 16) : Path W x (loadWords b count) { x with mbuf := overlay b x.mbuf count } := by
  induction count with
  | zero =>
    rw [overlay_zero]
    exact .nil x
  | succ n ih =>
    have hval := ofNat_sixteen_val hc
    have hwrite := moves_wr_mbuf (x := { x with mbuf := overlay b x.mbuf n }) hb (Fin.ofNat 16 n)
      (blockWord b (Fin.ofNat 16 n))
    have hword := setBlockWord_overlay b x.mbuf (Fin.ofNat 16 n)
    rw [hval] at hwrite hword
    rw [setMbufWord, hword] at hwrite
    rw [loadWords, List.range_succ, List.map_append]
    exact (ih (Nat.le_of_succ_le hc)).append (path_access hwrite)

theorem remainder_blockOfBytes {rem : List Byte} (h : rem.length ≤ 64) :
    remainder (blockOfBytes rem) rem.length = rem := by
  refine List.ext_getElem (by simpa using h) fun i hi hi' => ?_
  simp [remainder, List.getElem?_eq_getElem hi']

/-- The words LOADREM writes hold the whole remainder; FINAL does not read past it (R71, R78). -/
theorem remainder_overlay {rem : List Byte} (h : rem.length ≤ 64) (old : Block) :
    remainder (overlay (blockOfBytes rem) old ((rem.length + 3) / 4)) rem.length = rem := by
  refine (remainder_congr fun k hk => ?_).trans (remainder_blockOfBytes h)
  rw [Fin.getElem_fin, overlay_getElem, if_pos (by omega), Fin.getElem_fin]

end Sys2Proof.Machine
end

section
/-! PROOFS. The host protocol computes the digest, with WAIT and with the interrupt (spec/42_digest.md R152, R154,
spec/60_exceptions.md R172). -/

namespace Sys2Proof.Machine

/-! ### Between two commands, and while one is pending -/

/-- Nothing is pending, and the hash state and the phase are `c` and `ph`. -/
structure Ready (p : Params) (c : Chain) (ph : Phase) (x : State) : Prop where
  params : x.params = p
  chain : x.chain = c
  phase : x.phase = ph
  pend : x.pend = none

/-- A command is pending whose completion makes the hash state and the phase `c` and `ph` (R121). -/
structure Waiting (p : Params) (c : Chain) (ph : Phase) (x : State) : Prop where
  params : x.params = p
  pending : ∃ cmd i, x.pend = some cmd ∧ decode cmd = .ok i ∧ chainAfter i x = c ∧ phaseAfter i x.phase = ph

section Stages
variable {p : Params} {c : Chain} {ph : Phase} {x y : State}

theorem Ready.of_sameCommand (h : Ready p c ph x) (hxy : SameCommand x y) : Ready p c ph y where
  params := hxy.params.trans h.params
  chain := hxy.chain.trans h.chain
  phase := hxy.phase.trans h.phase
  pend := hxy.pend.trans h.pend

theorem Waiting.of_sameCommand (h : Waiting p c ph x) (hxy : SameCommand x y) : Waiting p c ph y := by
  obtain ⟨cmd, i, hp, hd, hc, hph⟩ := h.pending
  exact ⟨hxy.params.trans h.params, cmd, i, hxy.pend.trans hp, hd, (hxy.chainAfter_eq i).trans hc, hxy.phase ▸ hph⟩

theorem Ready.clearEvents (h : Ready p c ph x) : Ready p c ph (clearError (clearDone x)) :=
  h.of_sameCommand ⟨rfl, rfl, rfl, rfl, rfl⟩

theorem Ready.loaded (h : Ready p c ph x) (m : Block) : Ready p c ph { x with mbuf := m } :=
  ⟨h.params, h.chain, h.phase, h.pend⟩

theorem Ready.not_busy (h : Ready p c ph x) (hp : CommandPhase ph) : x.busy = false :=
  (not_busy_iff x).2 ⟨h.pend, h.phase ▸ ((commandPhase_iff ph).1 hp).1⟩

/-- The core's turn completes the command (R121). -/
theorem Waiting.moves (h : Waiting p c ph x) : Moves .core x (commit c ph x) := by
  obtain ⟨cmd, i, hp, hd, rfl, rfl⟩ := h.pending
  exact moves_core_pending hp hd

theorem Waiting.ready_commit (h : Waiting p c ph x) : Ready p c ph (commit c ph x) := ⟨h.params, rfl, rfl, rfl⟩

/-- WAIT after a command ends with the command completed (R78). -/
theorem Waiting.path_waitTurns (h : Waiting p c ph x) (n : Nat) :
    ∃ y, Path AnyTurn x (waitTurns n) y ∧ Ready p c ph y := by
  obtain ⟨ws, hpath⟩ := Machine.path_waitTurns (y := commit c ph x) n fun ws =>
    (h.of_sameCommand (sameCommand_heard ws x)).moves
  exact ⟨_, hpath, h.ready_commit.of_sameCommand (sameCommand_heard ws _)⟩

/-- A legal command is accepted, and the core's turn will complete it (R120, R121). -/
theorem Ready.path_issue (h : Ready p c ph x) (W : State → State → Prop) {i : Instr} (hw : WellFormed i)
    (hl : legal i ph = true) :
    Path W x [issue i] (setPending (encode i) x) ∧
      Waiting p (chainAfter i x) (phaseAfter i ph) (setPending (encode i) x) := by
  obtain ⟨hparams, -, rfl, hn⟩ := h
  refine ⟨path_access (moves_issue hw hn hl), hparams, encode i, i, rfl, decode_encode hw, ?_, rfl⟩
  cases i <;> rfl

/-- INIT starts from any command phase (R123). -/
theorem Ready.path_issue_init (h : Ready p c ph x) (W : State → State → Prop) (hp : CommandPhase ph) :
    Path W x [issue .init] (setPending (encode .init) x) ∧
      Waiting p chainStart .absorbing (setPending (encode .init) x) :=
  h.path_issue W (i := .init) rfl ((legal_init_iff ph).2 hp)

/-- LOADBLK and ABSORB: the pending command compresses the block (R124, R152). -/
theorem Ready.path_absorb (h : Ready p c .absorbing x) (W : State → State → Prop) (b : Block) :
    Path W x (loadBlock b ++ [issue .absorb]) (setPending (encode .absorb) { x with mbuf := b }) ∧
      Waiting p (absorbBlock p c b) .absorbing (setPending (encode .absorb) { x with mbuf := b }) := by
  have hload := path_loadWords W (h.not_busy (.inr (.inl rfl))) b (Nat.le_refl 16)
  rw [overlay_full] at hload
  obtain ⟨hissue, hwait⟩ := (h.loaded b).path_issue W (i := .absorb) rfl rfl
  have hchain : chainAfter .absorb { x with mbuf := b } = absorbBlock p c b := by
    rw [chainAfter, ← h.params, ← h.chain]
    rfl
  exact ⟨hload.append hissue, hchain ▸ hwait⟩

/-- LOADREM and FINAL: the pending command ends the computation with the remainder (R125, R152). -/
theorem Ready.path_final (h : Ready p c .absorbing x) (W : State → State → Prop) {rem : List Byte}
    (hr : rem.length < 64) :
    ∃ m, Path W x (loadRemainder rem ++ [issue (.final rem.length)])
        (setPending (encode (.final rem.length)) { x with mbuf := m }) ∧
      Waiting p (finishChain p c rem) .done (setPending (encode (.final rem.length)) { x with mbuf := m }) := by
  have hload := path_loadWords W (h.not_busy (.inr (.inl rfl))) (blockOfBytes rem)
    (show (rem.length + 3) / 4 ≤ 16 by omega)
  obtain ⟨hissue, hwait⟩ := (h.loaded (overlay (blockOfBytes rem) x.mbuf ((rem.length + 3) / 4))).path_issue W
    (wellFormed_final hr) (legal_absorbing (.final rem.length))
  refine ⟨_, hload.append hissue, ?_⟩
  have hchain : chainAfter (.final rem.length)
      { x with mbuf := overlay (blockOfBytes rem) x.mbuf ((rem.length + 3) / 4) } = finishChain p c rem := by
    rw [chainAfter, remainder_overlay hr.le, ← h.params, ← h.chain]
    rfl
  exact hchain ▸ hwait

end Stages

/-- The first WAIT: a command that is still pending completes, and the core is ready for INIT (R78, R152). -/
theorem path_firstWait {x : State} (h : Inv x) (hp : CommandPhase x.phase) (n : Nat) :
    ∃ y c ph, Path AnyTurn x (waitTurns n) y ∧ Ready x.params c ph y ∧ CommandPhase ph := by
  rcases hpend : x.pend with _ | cmd
  · obtain ⟨ws, hpath⟩ := path_waitTurns (x := x) n fun ws =>
      moves_core_quiet (x := heard ws x) hpend ((commandPhase_iff _).1 hp).1
    exact ⟨_, x.chain, x.phase, hpath, ⟨rfl, rfl, rfl, hpend⟩, hp⟩
  · obtain ⟨i, hd, -⟩ := h.pending cmd hpend
    have hwait : Waiting x.params (chainAfter i x) (phaseAfter i x.phase) x := ⟨rfl, cmd, i, hpend, hd, rfl, rfl⟩
    obtain ⟨y, hpath, hy⟩ := hwait.path_waitTurns n
    exact ⟨y, _, _, hpath, hy, commandPhase_phaseAfter i hp⟩

/-! ### What the last state shows -/

/-- After READH in DONE the host holds the digest, and H, N and SIGMA are those of the reference function (R154). -/
theorem Ready.digest_results {p : Params} {msg : List Byte} {x : State} (h : Ready p (digestChain p msg) .done x) :
    x.h = digest p msg ∧ x.n = (digestChain p msg).n ∧ x.sigma = (digestChain p msg).sigma ∧
      blockOfWords ((heard (hashWords x.h) x).replies.drop ((heard (hashWords x.h) x).replies.length - 16)) =
        digest p msg := by
  obtain ⟨-, hchain, -, -⟩ := h
  rw [blockOfWords_last_heard, digest, ← hchain]
  exact ⟨rfl, rfl, rfl, rfl⟩

/-! ### The protocol with WAIT -/

theorem path_absorbAllTurns {p : Params} (bs : List Block) (polls : Nat → Nat) {c : Chain} {x : State}
    (h : Ready p c .absorbing x) :
    ∃ y, Path AnyTurn x (absorbAllTurns bs polls) y ∧ Ready p (bs.foldl (absorbBlock p) c) .absorbing y := by
  induction bs generalizing polls c x with
  | nil => exact ⟨x, .nil x, h⟩
  | cons b bs ih =>
    obtain ⟨habsorb, hpending⟩ := h.path_absorb AnyTurn b
    obtain ⟨y, hwait, hy⟩ := hpending.path_waitTurns (polls 0)
    obtain ⟨z, hrest, hz⟩ := ih (fun k => polls (k + 1)) hy
    exact ⟨z, (habsorb.append hwait).append hrest, hz⟩

/-- The turns of HASH(M) with WAIT end with READH in DONE, the hash state being the reference function's (R154). -/
theorem path_hashTurns {x : State} (h : Inv x) (hp : CommandPhase x.phase) (msg : List Byte) (polls : Nat → Nat) :
    ∃ y, Path AnyTurn x (hashTurns msg polls) (heard (hashWords y.h) y) ∧
      Ready x.params (digestChain x.params msg) .done y := by
  obtain ⟨y₀, c, ph, hfirst, hy₀, hph⟩ := path_firstWait h hp (polls 0)
  obtain ⟨hinit, hpending⟩ := hy₀.path_issue_init AnyTurn hph
  obtain ⟨y₁, hwait, hy₁⟩ := hpending.path_waitTurns (polls 1)
  obtain ⟨y₂, hblocks, hy₂⟩ := path_absorbAllTurns (fullBlocks msg) (fun k => polls (k + 3)) hy₁
  have hlen := messageRemainder_length msg
  obtain ⟨m, hfinal, hlast⟩ := hy₂.path_final AnyTurn (rem := messageRemainder msg) (by omega)
  obtain ⟨y, hwait', hy⟩ := hlast.path_waitTurns (polls 2)
  refine ⟨y, ?_, hy⟩
  rw [hashTurns, ← hlen, List.append_assoc _ (loadRemainder _)]
  exact (((((hfirst.append hinit).append hwait).append hblocks).append hfinal).append hwait').append
    (path_readHash AnyTurn y)

/-- Settles O57: each WAIT lets the core complete what is pending, so the turns follow the reference function. -/
theorem protocolComputesDigest : Obligations.ProtocolComputesDigest := by
  intro s msg polls rest hinv hphase hs
  obtain ⟨y, hpath, hy⟩ := path_hashTurns hinv hphase msg polls
  obtain ⟨hh, hn, hsigma, hread⟩ := hy.digest_results
  have hrun := hpath.run rest
  rw [setSchedule_self hs] at hrun
  exact ⟨_, hrun, hy.phase, hy.pend, hh, hn, hsigma, hread, rfl⟩

/-! ### The protocol with the interrupt -/

/-- IE_DONE is set, no error is captured, and CMD_DONE is `done`: `irq` shows CMD_DONE (R38). -/
structure DoneEvents (done : Bool) (x : State) : Prop where
  ieDone : x.ieDone = true
  cmdDone : x.cmdDone = done
  err : x.err = false
  errCode : x.errCode = .none
  errOvf : x.errOvf = false

section Events
variable {done : Bool} {x : State}

theorem DoneEvents.irq (h : DoneEvents done x) : x.irq = done := by simp [State.irq, h.ieDone, h.cmdDone, h.err]

theorem DoneEvents.commit (h : DoneEvents done x) (c : Chain) (ph : Phase) : DoneEvents true (commit c ph x) :=
  ⟨h.ieDone, rfl, h.err, h.errCode, h.errOvf⟩

/-- CLREV lowers `irq` (R78, R131). -/
theorem doneEvents_clear (h : x.ieDone = true) : DoneEvents false (clearError (clearDone x)) := ⟨h, rfl, rfl, rfl, rfl⟩

theorem DoneEvents.issued (h : DoneEvents done x) (cmd : Word32) : DoneEvents done (setPending cmd x) :=
  ⟨h.ieDone, h.cmdDone, h.err, h.errCode, h.errOvf⟩

theorem DoneEvents.loaded (h : DoneEvents done x) (m : Block) : DoneEvents done { x with mbuf := m } :=
  ⟨h.ieDone, h.cmdDone, h.err, h.errCode, h.errOvf⟩

/-- With `irq` low before a command, its completion raises it (R172). -/
theorem Waiting.path_waitIrqTurns {p : Params} {c : Chain} {ph : Phase} (h : Waiting p c ph x)
    (he : DoneEvents false x) :
    Path RaisesIrq x waitIrqTurns (commit c ph x) :=
  path_core h.moves ⟨he.irq, (he.commit c ph).irq⟩

theorem path_clearEvents (W : State → State → Prop) (x : State) :
    Path W x [clearEvents] (clearError (clearDone x)) := path_access (moves_clearEvents x)

/-- "wait irq" and CLREV: the command is completed and `irq` is low again (R152). -/
theorem Waiting.path_waitIrq_clear {p : Params} {c : Chain} {ph : Phase} (h : Waiting p c ph x)
    (he : DoneEvents false x) :
    ∃ y, Path RaisesIrq x (waitIrqTurns ++ [clearEvents]) y ∧ Ready p c ph y ∧ DoneEvents false y :=
  ⟨_, (h.path_waitIrqTurns he).append (path_clearEvents _ _), h.ready_commit.clearEvents,
    doneEvents_clear (he.commit c ph).ieDone⟩

end Events

theorem path_absorbIrqTurns {p : Params} (bs : List Block) {c : Chain} {x : State} (h : Ready p c .absorbing x)
    (he : DoneEvents false x) :
    ∃ y, Path RaisesIrq x (bs.flatMap absorbIrqTurns) y ∧ Ready p (bs.foldl (absorbBlock p) c) .absorbing y ∧
      DoneEvents false y := by
  induction bs generalizing c x with
  | nil => exact ⟨x, .nil x, h, he⟩
  | cons b bs ih =>
    obtain ⟨habsorb, hpending⟩ := h.path_absorb RaisesIrq b
    obtain ⟨y, hwait, hy, hye⟩ := hpending.path_waitIrq_clear ((he.loaded b).issued _)
    obtain ⟨z, hrest, hz⟩ := ih hy hye
    refine ⟨z, ?_, hz⟩
    rw [List.flatMap_cons, absorbIrqTurns, List.append_assoc (loadBlock b ++ [issue .absorb])]
    exact (habsorb.append hwait).append hrest

/-- The first WAIT, the enables and CLREV leave the core ready for INIT with `irq` low (R152, P3). -/
theorem path_irqPrelude {x : State} (h : Inv x) (hp : CommandPhase x.phase) (n : Nat) (ieErr : Bool) :
    ∃ y c ph, Path AnyTurn x (irqPrelude n ieErr) y ∧ Ready x.params c ph y ∧ CommandPhase ph ∧
      DoneEvents false y := by
  obtain ⟨y, c, ph, hfirst, hy, hph⟩ := path_firstWait h hp n
  have henable : Path AnyTurn y [enableDoneIrq ieErr] (setEnables true ieErr y) :=
    path_access (moves_enableDoneIrq ieErr y)
  have hready : Ready x.params c ph (setEnables true ieErr y) := hy.of_sameCommand ⟨rfl, rfl, rfl, rfl, rfl⟩
  exact ⟨_, c, ph, hfirst.append (henable.append (path_clearEvents _ _)), hready.clearEvents, hph,
    doneEvents_clear rfl⟩

/-- The turns of HASH(M) with the interrupt from INIT on (R152). -/
def hashIrqBody (msg : List Byte) : List Turn :=
  [issue .init] ++ (waitIrqTurns ++ [clearEvents]) ++ (fullBlocks msg).flatMap absorbIrqTurns
    ++ (loadRemainder (messageRemainder msg) ++ [issue (.final (messageRemainder msg).length)]) ++ waitIrqTurns ++ readHash

theorem hashIrqTurns_eq (msg : List Byte) (n : Nat) (ieErr : Bool) :
    hashIrqTurns msg n ieErr = irqPrelude n ieErr ++ hashIrqBody msg := by
  simp only [hashIrqTurns, hashIrqBody, messageRemainder_length, List.append_assoc]

/-- From INIT on the core's turns are those at which the host waits for `irq`, and READH follows in DONE (R152, R154). -/
theorem path_hashIrqBody {p : Params} {c : Chain} {ph : Phase} {x : State} (h : Ready p c ph x) (hp : CommandPhase ph)
    (he : DoneEvents false x) (msg : List Byte) :
    ∃ y, Path RaisesIrq x (hashIrqBody msg) (heard (hashWords y.h) y) ∧ Ready p (digestChain p msg) .done y ∧
      DoneEvents true y := by
  obtain ⟨hinit, hpending⟩ := h.path_issue_init RaisesIrq hp
  obtain ⟨y₁, hwait, hy₁, he₁⟩ := hpending.path_waitIrq_clear (he.issued _)
  obtain ⟨y₂, hblocks, hy₂, he₂⟩ := path_absorbIrqTurns (fullBlocks msg) hy₁ he₁
  have hlen := messageRemainder_length msg
  obtain ⟨m, hfinal, hlast⟩ := hy₂.path_final RaisesIrq (rem := messageRemainder msg) (by omega)
  have hevents := (he₂.loaded m).issued (encode (.final (messageRemainder msg).length))
  exact ⟨_, ((((hinit.append hwait).append hblocks).append hfinal).append (hlast.path_waitIrqTurns hevents)).append
    (path_readHash _ _), hlast.ready_commit, hevents.commit _ _⟩

/-- STATUS in DONE with the completion signalled (R31). -/
theorem statusWord_done {p : Params} {c : Chain} {x : State} (h : Ready p c .done x) (he : DoneEvents true x) :
    statusWord x = 0x00002006 := by
  have hbusy : x.busy = false := h.not_busy (.inr (.inr rfl))
  rw [statusWord, hbusy, h.phase, he.errCode, he.errOvf, he.irq]
  rfl

theorem eventWord_done {x : State} (he : DoneEvents true x) : eventWord x = 0x00000001 := by
  rw [eventWord, he.cmdDone, he.err]
  rfl

/-- Settles O58: after the prelude `irq` follows CMD_DONE, which a completion sets and CLREV clears, and the turns follow
the reference function. -/
theorem interruptProtocolComputesDigest : Obligations.InterruptProtocolComputesDigest := by
  intro s msg polls ieErr rest hinv hphase hs
  obtain ⟨x, c, ph, hprelude, hx, hph, he⟩ := path_irqPrelude hinv hphase polls ieErr
  obtain ⟨y, hbody, hy, hye⟩ := path_hashIrqBody hx hph he msg
  rw [hashIrqTurns_eq] at hs ⊢
  constructor
  · obtain ⟨hh, hn, hsigma, hread⟩ := hy.digest_results
    have hstatus := statusWord_done hy hye
    have hevent := eventWord_done hye
    have hrun := (hprelude.append hbody.anyTurn).run rest
    rw [setSchedule_self hs] at hrun
    exact ⟨_, hrun, hy.phase, hy.pend, hh, hn, hsigma, hread, rfl, hye.irq, hstatus, hevent⟩
  · intro k hk hcore
    rw [List.getElem?_append_right hk] at hcore
    obtain ⟨u, v, rest', hrun, hmoves, hu, hv⟩ := hbody.core_turn rest hcore
    have hstart := hprelude.run (hashIrqBody msg ++ rest)
    rw [← List.append_assoc, setSchedule_self hs] at hstart
    refine ⟨setSchedule (.core :: rest') u, setSchedule rest' v, ?_, hu, step_of_moves hmoves rest', hv⟩
    rw [← Nat.add_sub_cancel' hk]
    exact (run_add _ _ hstart).trans hrun

end Sys2Proof.Machine
end

section
/-! PROOFS. The error capture: what an error writes, which accesses raise one and with what ERRINFO, and what clears it
(spec/60_exceptions.md R160, R161, R166, R170, R171). -/

namespace Sys2Proof.Machine

/-! ### Raising an error -/

/-- Any error, the first or a later one, leaves EVENT.ERR set for `irq` to follow (R38). -/
@[simp] theorem irq_raiseError (code : ErrorCode) (info : Word32) (s : State) :
    (raiseError code info s).irq = ((s.cmdDone && s.ieDone) || s.ieErr) := by
  simp [State.irq]

/-- Settles O22: the first error is captured, a later one sets ERR_OVF, and either sets ERR. -/
theorem errorCapture : Obligations.ErrorCapture :=
  fun code info s => ⟨raiseError_first, raiseError_later, irq_raiseError code info s⟩

/-! ### Accesses refused with BUS -/

/-- A register that some write changes: all but STATUS, ERRINFO, CONFIG, H, N and SIGMA (R55, R129). -/
def Reg.writable : Reg → Bool
  | .ctrl | .event | .cmd | .mbuf _ => true
  | .status | .errInfo | .config | .h _ | .n _ | .sigma _ => false

/-- A write is refused with BUS unless it reaches a writable register (R129). -/
theorem busWrite_refused {size : AccessSize} {off : Offset} (h : ∀ r, target size off = some r → r.writable = false)
    (v : Word32) (s : State) : busWrite size off v s = raiseError .bus (accessInfo true size off) s := by
  unfold busWrite
  cases ht : target size off with
  | none => rfl
  | some r =>
    cases r with
    | ctrl | event | cmd | mbuf => cases h _ ht
    | status | errInfo | config | h | n | sigma => rfl

/-- No read-only offset holds a writable register (R53, R55). -/
theorem regAt_readOnly {off : Offset} (h : ReadOnly off) {r : Reg} (hr : regAt off = some r) : r.writable = false := by
  obtain rfl | rfl | rfl | ⟨hlo, hhi⟩ := h
  · obtain rfl : Reg.status = r := Option.some.inj hr
    rfl
  · obtain rfl : Reg.errInfo = r := Option.some.inj hr
    rfl
  · obtain rfl : Reg.config = r := Option.some.inj hr
    rfl
  · simp (disch := omega) only [regAt, if_neg, if_pos] at hr
    split_ifs at hr <;> (cases hr; rfl)

/-- A target is the register at the offset (R51). -/
theorem regAt_of_target {size : AccessSize} {off : Offset} {r : Reg} (h : target size off = some r) :
    regAt off = some r := by
  unfold target at h
  split at h
  · exact h
  · cases h

/-- Settles O18: a misdirected access reaches no register, and a write to a read-only offset no writable one. -/
theorem busErrors : Obligations.BusErrors := by
  refine fun s size off v => ⟨fun h => ⟨?_, ?_⟩, fun h => ?_⟩
  · exact busWrite_refused (fun r hr => nomatch (target_of_misdirected h).symm.trans hr) v s
  · rw [hostAccess, busRead_of_misdirected h, reply, raiseError_replies]
  · exact busWrite_refused (fun r hr => regAt_readOnly h (regAt_of_target hr)) v s

/-! ### ERRINFO -/

theorem sizeCode_le (size : AccessSize) : sizeCode size ≤ 3 := by cases size <;> decide

theorem accessInfo_toNat (write : Bool) (size : AccessSize) (off : Offset) :
    (accessInfo write size off).toNat = (if write then 2 ^ 31 else 0) + sizeCode size * 2 ^ 12 + off.toNat := by
  have hsize := sizeCode_le size
  have hoff := off.isLt
  rw [accessInfo, BitVec.toNat_ofNat, Nat.mod_eq_of_lt]
  split <;> omega

/-- The size code and the offset fill bits 13:0, and the direction is bit 31 (R161). -/
theorem accessInfo_reserved (write : Bool) (size : AccessSize) (off : Offset) :
    (accessInfo write size off).extractLsb' 14 17 = 0 := by
  have hsize := sizeCode_le size
  have hoff := off.isLt
  apply BitVec.eq_of_toNat_eq
  rw [BitVec.extractLsb'_toNat, accessInfo_toNat, Nat.shiftRight_eq_div_pow]
  change _ = 0
  split <;> omega

theorem selfTestInfo_toNat (p : Params) :
    (selfTestInfo p).toNat = 2 ^ 30 + (if bij8 p = true then 0 else 1) + (if bij6 p = true then 0 else 2) := by
  rw [selfTestInfo, BitVec.toNat_ofNat, Nat.mod_eq_of_lt]
  split <;> split <;> omega

/-- A CMD write that raises the first error captures the word written (R120, R161). -/
theorem acceptCommand_errInfo {s : State} {cmd : Word32} (hs : s.err = false) (ht : (acceptCommand cmd s).err = true) :
    (acceptCommand cmd s).errInfo = cmd := by
  obtain ⟨code, -, -, he⟩ | ⟨-, -, -, he⟩ := acceptCommand_cases cmd s
  · rw [he, raiseError_first hs]
  · rw [he, setPending_err, hs] at ht
    cases ht

/-- Settles O26: a refused command word is its own ERRINFO, and the other two words are sums of fields that do not
overlap. -/
theorem errorInfoFormats : Obligations.ErrorInfoFormats := by
  refine ⟨fun s cmd hs ht => ?_, fun write size off => ?_, selfTestInfo_toNat⟩
  · rw [hostAccess_cmd] at ht ⊢
    exact acceptCommand_errInfo hs ht
  · exact ⟨accessInfo_toNat write size off, accessInfo_reserved write size off⟩

/-! ### Precise errors -/

@[simp] theorem writeEventDone_err (v : Word32) (s : State) : (writeEventDone v s).err = s.err := by
  rw [writeEventDone_eq]

@[simp] theorem writeEventDone_errCode (v : Word32) (s : State) : (writeEventDone v s).errCode = s.errCode := by
  rw [writeEventDone_eq]

@[simp] theorem writeEventDone_errOvf (v : Word32) (s : State) : (writeEventDone v s).errOvf = s.errOvf := by
  rw [writeEventDone_eq]

@[simp] theorem writeEventDone_errInfo (v : Word32) (s : State) : (writeEventDone v s).errInfo = s.errInfo := by
  rw [writeEventDone_eq]

/-- `t` is `s` after a refused access: an error is raised, and a read has returned 0 (R128, R129, R170). -/
def Refused (s t : State) : Prop :=
  ∃ code info, t = raiseError code info s ∨ t = reply 0 (raiseError code info s)

/-- An access that is not refused sets neither ERR nor ERR_OVF (R170). -/
theorem AccessEffect.refused_or_quiet {s t : State} {a : Access} (h : AccessEffect s a t) :
    Refused s t ∨ ((t.err = true → s.err = true) ∧ (t.errOvf = true → s.errOvf = true)) := by
  cases h with
  | readRefused => exact .inl ⟨_, _, .inr rfl⟩
  | writeRefused _ _ _ code info => exact .inl ⟨code, info, .inl rfl⟩
  | softReset => exact .inr ⟨nofun, nofun⟩
  | eventKept => exact .inr (by simp)
  | eventCleared => exact .inr ⟨nofun, nofun⟩
  | served => exact .inr ⟨id, id⟩
  | enables => exact .inr ⟨id, id⟩
  | stored => exact .inr ⟨id, id⟩
  | accepted => exact .inr ⟨id, id⟩

/-- A refusal that is the first error changes ERR, ERR_CODE, ERRINFO and at most the replies (R160, R170). -/
theorem Refused.first {s t : State} (h : Refused s t) (he : s.err = false) :
    t = { s with err := true, errCode := t.errCode, errInfo := t.errInfo, replies := t.replies } ∧
      (t.replies = s.replies ∨ t.replies = s.replies ++ [0]) := by
  obtain ⟨code, info, rfl | rfl⟩ := h <;> rw [raiseError_first he]
  · exact ⟨rfl, .inl rfl⟩
  · exact ⟨rfl, .inr rfl⟩

/-- A refusal that is a later error changes ERR_OVF and at most the replies (R160, R170). -/
theorem Refused.later {s t : State} (h : Refused s t) (he : s.err = true) :
    t = { s with errOvf := true, replies := t.replies } ∧
      (t.replies = s.replies ∨ t.replies = s.replies ++ [0]) := by
  obtain ⟨code, info, rfl | rfl⟩ := h <;> rw [raiseError_later he]
  · exact ⟨rfl, .inl rfl⟩
  · exact ⟨rfl, .inr rfl⟩

/-- Settles O24: an access that newly sets ERR or ERR_OVF was refused, and a refusal touches the capture only. -/
theorem errorsArePrecise : Obligations.ErrorsArePrecise := by
  rintro a s t rfl
  obtain hr | ⟨herr, hovf⟩ := (hostAccess_effect a s).refused_or_quiet
  · exact ⟨fun hs _ => hr.first hs, fun hs _ _ => hr.later hs⟩
  · refine ⟨fun hs ht => ?_, fun _ hs ht => ?_⟩
    · exact absurd (herr ht) (ne_true_of_eq_false hs)
    · exact absurd (hovf ht) (ne_true_of_eq_false hs)

/-! ### The sticky capture -/

/-- `t` still holds the error captured in `s` (R160). -/
structure KeepsCapture (s t : State) : Prop where
  err : t.err = true
  errCode : t.errCode = s.errCode
  errInfo : t.errInfo = s.errInfo
  errOvf : s.errOvf = true → t.errOvf = true

/-- A later error does not replace the first (R160). -/
theorem keepsCapture_raiseError {s : State} (he : s.err = true) (code : ErrorCode) (info : Word32) :
    KeepsCapture s (raiseError code info s) := by
  rw [raiseError_later he]
  exact ⟨he, rfl, rfl, fun _ => rfl⟩

/-- Of the accesses, only a soft reset and an error clear touch a captured error (R131, R160, R171). -/
theorem AccessEffect.keepsCapture {s t : State} {a : Access} (h : AccessEffect s a t) (he : s.err = true)
    (hr : ¬SoftReset a) (hc : ¬ErrorClear a) : KeepsCapture s t := by
  cases h with
  | softReset size off v h hv =>
    obtain ⟨rfl, rfl⟩ := target_eq_ctrl h
    exact absurd ⟨v, rfl, hv⟩ hr
  | eventCleared size off v h hv =>
    obtain ⟨rfl, rfl⟩ := target_eq_event h
    exact absurd ⟨v, rfl, hv⟩ hc
  | readRefused size off =>
    have hk := keepsCapture_raiseError he .bus (accessInfo false size off)
    exact ⟨hk.err, hk.errCode, hk.errInfo, hk.errOvf⟩
  | writeRefused => exact keepsCapture_raiseError he _ _
  | eventKept => constructor <;> simp [he]
  | served => exact ⟨he, rfl, rfl, id⟩
  | enables => exact ⟨he, rfl, rfl, id⟩
  | stored => exact ⟨he, rfl, rfl, id⟩
  | accepted => exact ⟨he, rfl, rfl, id⟩

/-- A core step leaves a captured error; the self-test end can raise a later one only (R121, R160, R191). -/
theorem coreStep_keepsCapture {s t : State} (h : coreStep s = .next t) (he : s.err = true) : KeepsCapture s t := by
  obtain ⟨_, _, -, -, rfl⟩ | ⟨-, -, rfl⟩ | ⟨-, -, rfl⟩ := coreStep_cases h
  · exact ⟨he, rfl, rfl, id⟩
  · unfold selfTestEnd
    split
    · exact ⟨he, rfl, rfl, id⟩
    · have hk := keepsCapture_raiseError (s := setPhase .cfgFault s) he .cfg (selfTestInfo s.params)
      exact ⟨hk.err, hk.errCode, hk.errInfo, hk.errOvf⟩
  · exact ⟨he, rfl, rfl, id⟩

/-- Settles O23: of the turns, only a hardware reset, a soft reset and an error clear touch a captured error. -/
theorem errorCaptureIsSticky : Obligations.ErrorCaptureIsSticky := by
  intro s t hstep he hreset haccess
  have hkeep : KeepsCapture (setSchedule s.schedule.tail s) t := by
    obtain ⟨a, hn, rfl⟩ | ⟨hn, -⟩ | ⟨-, hcore⟩ := step_cases hstep
    · obtain ⟨hr, hc⟩ := haccess a hn
      exact (hostAccess_effect a _).keepsCapture he hr hc
    · exact absurd hn hreset
    · exact coreStep_keepsCapture hcore he
  exact ⟨hkeep.err, hkeep.errCode, hkeep.errInfo, hkeep.errOvf⟩

end Sys2Proof.Machine
end

section
/-! PROOFS. Two consequences of the invariant along runs: the machine always goes on, and with a faulty table it never
completes a command (spec/60_exceptions.md R163, R170, R171, spec/70_reset_and_hazards.md R191). -/

namespace Sys2Proof.Machine

/-! ### Progress -/

/-- A pending word that the invariant allows decodes, so the core's step is never the fault (R120, R121). -/
theorem exists_coreStep {s : State} (h : Inv s) : ∃ t, coreStep s = .next t := by
  cases hp : s.pend with
  | some cmd =>
    obtain ⟨i, hd, -⟩ := h.pending cmd hp
    exact ⟨_, (coreStep_pending hp hd).trans (exec_eq i s)⟩
  | none =>
    by_cases hs : s.phase = .selfTest
    · exact ⟨_, coreStep_selfTest hp hs⟩
    · exact ⟨s, coreStep_quiet hp hs⟩

/-- Settles O32: accesses and resets always answer, and the core's step does under the invariant. -/
theorem stepNeverStops : Obligations.StepNeverStops := by
  intro s h
  rw [step_eq]
  cases s.nextTurn with
  | access a => exact ⟨_, rfl⟩
  | hardReset => exact ⟨_, rfl⟩
  | core => exact exists_coreStep (h.setSchedule _)

/-! ### A faulty table -/

/-- No access sets CMD_DONE (R34, R131). -/
theorem AccessEffect.cmdDone_eq_false {s t : State} {a : Access} (h : AccessEffect s a t) (hd : s.cmdDone = false) :
    t.cmdDone = false := by
  have hevent (v : Word32) : (writeEventDone v s).cmdDone = false := by simp [writeEventDone_eq, hd]
  cases h with
  | readRefused => exact (raiseError_cmdDone _ _ s).trans hd
  | writeRefused => exact (raiseError_cmdDone _ _ s).trans hd
  | softReset => rfl
  | eventKept => exact hevent _
  | eventCleared => exact hevent _
  | served => exact hd
  | enables => exact hd
  | stored => exact hd
  | accepted => exact hd

@[simp] theorem selfTestEnd_cmdDone (s : State) : (selfTestEnd s).cmdDone = s.cmdDone := by
  unfold selfTestEnd
  split
  · rfl
  · rw [raiseError_cmdDone, setPhase_cmdDone]

/-- With nothing pending, no step sets CMD_DONE (R34). -/
theorem step_cmdDone_eq_false {s t : State} (hstep : step s = .next t) (hp : s.pend = none) (hd : s.cmdDone = false) :
    t.cmdDone = false := by
  obtain ⟨a, -, rfl⟩ | ⟨-, rfl⟩ | ⟨-, hcore⟩ := step_cases hstep
  · exact (hostAccess_effect a _).cmdDone_eq_false hd
  · rfl
  · obtain ⟨cmd, _, hc, -, -⟩ | ⟨-, -, rfl⟩ | ⟨-, -, rfl⟩ := coreStep_cases hcore
    · cases hp.symm.trans hc
    · exact (selfTestEnd_cmdDone _).trans hd
    · exact hd

/-- A state with a faulty table, which has the invariant and in which no command has completed (R163, R191). -/
structure FaultedInstance (s : State) : Prop where
  inv : Inv s
  faulty : (bij8 s.params && bij6 s.params) = false
  cmdDone : s.cmdDone = false

/-- With a faulty table the self-test never leads to a phase in which a command is accepted (R191). -/
theorem FaultedInstance.not_commandPhase {s : State} (h : FaultedInstance s) : ¬CommandPhase s.phase :=
  fun hp => ne_true_of_eq_false h.faulty (h.inv.tablesGood hp)

theorem FaultedInstance.phase {s : State} (h : FaultedInstance s) : s.phase = .selfTest ∨ s.phase = .cfgFault := by
  have hp := h.not_commandPhase
  rwa [commandPhase_iff, ← not_or, not_not] at hp

theorem FaultedInstance.pend {s : State} (h : FaultedInstance s) : s.pend = none := by
  rw [Option.eq_none_iff_forall_ne_some]
  intro cmd hp
  obtain ⟨i, -, hl⟩ := h.inv.pending cmd hp
  exact h.not_commandPhase ((legal_iff i _).1 hl).1

theorem FaultedInstance.chain {s : State} (h : FaultedInstance s) : s.chain = chainStart :=
  h.inv.hashClear (h.phase.imp_right .inr)

theorem FaultedInstance.step {s t : State} (h : FaultedInstance s) (hstep : step s = .next t) : FaultedInstance t where
  inv := stepKeepsInvariant s t h.inv hstep
  faulty := step_params hstep ▸ h.faulty
  cmdDone := step_cmdDone_eq_false hstep h.pend h.cmdDone

/-- Settles O35: every step keeps the faulty table with nothing completed, and the invariant then shuts out a command
phase, a pending command and a changed hash state. -/
theorem faultedInstanceNeverHashes : Obligations.FaultedInstanceNeverHashes := by
  intro p turns k t hbad hrun
  have hfaulty : (bij8 p && bij6 p) = false := by rwa [← Bool.not_eq_true, Bool.and_eq_true]
  have hreset : FaultedInstance (setSchedule turns (State.resetOf p)) :=
    ⟨(inv_resetCore (State.resetOf p)).setSchedule turns, hfaulty, rfl⟩
  have ht : FaultedInstance t := run_keeps (fun _ _ h => h.step) hreset hrun
  obtain ⟨hh, hn, hsigma⟩ := Chain.mk.inj ht.chain
  exact ⟨ht.phase, ht.pend, ht.cmdDone, hh, hn, hsigma⟩

end Sys2Proof.Machine
end

section
/-! PROOFS. The self-test end, the one effect of the two resets, and the invariant right after a reset
(spec/70_reset_and_hazards.md R190, R191, spec/10_state.md R44). -/

namespace Sys2Proof.Machine

/-! ### The self-test end -/

/-- Two bijections lead to IDLE (R191). -/
theorem selfTestEnd_of_bijections {s : State} (h : bij8 s.params = true ∧ bij6 s.params = true) :
    selfTestEnd s = setPhase .idle s := by
  rw [selfTestEnd, if_pos (Bool.and_eq_true_iff.mpr h)]

/-- A table that is no bijection leads to CFG_FAULT with error CFG (R191). -/
theorem selfTestEnd_of_faulty_table {s : State} (h : ¬(bij8 s.params = true ∧ bij6 s.params = true)) :
    selfTestEnd s = raiseError .cfg (selfTestInfo s.params) (setPhase .cfgFault s) := by
  rw [selfTestEnd, if_neg (mt Bool.and_eq_true_iff.mp h)]

/-- Settles O27: with nothing pending in SELFTEST the core's step is the self-test end, which the tables decide. -/
theorem selfTestEndEffect : Obligations.SelfTestEnd := by
  intro s hs hp
  rw [coreStep_selfTest hp hs]
  constructor
  · intro hgood
    rw [selfTestEnd_of_bijections hgood, setPhase]
  · intro hbad
    rw [selfTestEnd_of_faulty_table hbad, selfTestInfo, setPhase]

/-! ### The reset -/

/-- Settles O28: the hardware reset and the soft reset are both `resetCore`, whose fields are the listed values. -/
theorem resetProcedure : Obligations.ResetProcedure := fun s _ hv =>
  ⟨resetCore s, rfl, hostAccess_softReset hv s, rfl, busy_resetCore s, irq_resetCore s⟩

/-- The state right after reset is its own reset, for every instance. -/
theorem resetCore_resetOf (p : Params) : resetCore (State.resetOf p) = State.resetOf p := rfl

theorem inv_resetOf (p : Params) : Inv (State.resetOf p) := resetCore_resetOf p ▸ inv_resetCore (State.resetOf p)

/-- Settles O30: the state right after reset is the result of a reset, and a reset establishes the invariant. -/
theorem invariantAtReset : Obligations.InvariantAtReset := ⟨inv_resetOf Config.params, inv_resetOf⟩

end Sys2Proof.Machine
end

section
/-! PROOFS. The command codec is a bijection between the well-formed commands and the words that decode
(spec/30_encoding.md R70 to R75). -/

namespace Sys2Proof

/-! ### From a command to its word, its bytes and its table word -/

/-- A table word of 32 bits is read as the word it is (R52, R75). -/
theorem decodeTableWord_toNat (v : Word32) : decodeTableWord 32 v.toNat = (decode v).toOption := by
  have hbits : tableBits 32 v.toNat = v.toNat := Nat.mod_eq_of_lt v.isLt
  rw [decodeTableWord, hbits, if_neg (Nat.not_le.2 v.isLt), BitVec.ofNat_toNat, BitVec.setWidth_eq, decodeBytes_laneByte]

/-- Settles O2: the bytes and the table word of a command carry its word, and the fields of the word are the command's. -/
theorem decodeEncodeRoundTrip : Obligations.DecodeEncodeRoundTrip := by
  intro i hi
  have hword : decode (encode i) = .ok i := decode_encode hi
  refine ⟨hword, ?_, ?_⟩
  · rw [encodeBytes, decodeBytes_laneByte, hword]
  · rw [decodeTableWord_toNat, hword]
    rfl

/-! ### From a word to the command it decodes to -/

theorem fitsRow_of_decode {cmd : Word32} {i : Instr} (h : decode cmd = .ok i) : FitsRow i.opc cmd :=
  (decode_opc_iff i cmd).1 ⟨i, h, rfl⟩

/-- FINAL's remainder length is the REMLEN field as an unsigned number (R71). -/
theorem eq_remlenField_of_decode_final {cmd : Word32} {r : Nat} (h : decode cmd = .ok (.final r)) :
    r = (remlenField cmd).toNat := by
  unfold decode at h
  split_ifs at h <;> cases h
  rfl

/-- The six bits of REMLEN hold no length above 63, so the decoder answers well-formed commands only (R71). -/
theorem wellFormed_of_decode {cmd : Word32} {i : Instr} (h : decode cmd = .ok i) : WellFormed i := by
  cases i with
  | nop | init | absorb => rfl
  | final r => exact wellFormed_final (eq_remlenField_of_decode_final h ▸ (remlenField cmd).isLt)

/-- The decoder loses nothing of REMLEN: FINAL keeps it, and the other commands fix it to 0 (R70, R71). -/
theorem remlen_of_decode {cmd : Word32} {i : Instr} (h : decode cmd = .ok i) : i.remlen = remlenField cmd := by
  obtain ⟨-, hrem, -⟩ := fitsRow_of_decode h
  cases i with
  | nop | init | absorb => exact (hrem.resolve_left (by decide)).symm
  | final r =>
    rw [eq_remlenField_of_decode_final h, Instr.remlen, BitVec.ofNat_toNat, BitVec.setWidth_eq]

/-- Settles O3: the word and the encoding of its command agree in OPC, REMLEN and RSVD, which are all the bits. -/
theorem encodeDecodeRoundTrip : Obligations.EncodeDecodeRoundTrip := by
  intro cmd i h
  obtain ⟨hopc, -, hrsvd⟩ := fitsRow_of_decode h
  refine ⟨wellFormed_of_decode h, eq_iff_fields.2 ⟨?_, ?_, ?_⟩⟩
  · rw [opcField_encode, hopc]
  · rw [remlenField_encode, remlen_of_decode h]
  · rw [rsvdField_encode, hrsvd]

end Sys2Proof
end
